-- ==== Sys2Proof/Word.lean ====
section
/-! DEFINITION. The word types of the block and nothing else. -/

namespace Sys2Proof

/-- A sample byte, a frame byte. -/
abbrev Byte := BitVec 8

/-- A magnitude or BitMark word of the block buffer (R47, R69). -/
abbrev W16 := BitVec 16

/-- A register of the register port (R45). -/
abbrev W32 := BitVec 32

/-- A 24-bit address, checksum or syndrome (R139, R140). -/
abbrev W24 := BitVec 24

/-- A transaction word (R63). -/
abbrev Txn := BitVec 40

end Sys2Proof
end

