-- ==== Sys2Proof/Config.lean ====
section
/-! DEFINITION. The parameters of R6 (00_scope.md) that are plain data, and the free values the spec leaves open. -/

namespace Sys2Proof

/-- The parameters of R6 as plain data. A machine is built with one value of this record, held in `State.params`, which no step writes.
`TRACK_FN` is `Machine.trackFn`, a free function under its named properties (A5). -/
structure Params where
  /-- MAX_BLOCK_BYTES -/
  maxBlockBytes : Nat
  /-- IQ_CAP -/
  iqCap : Nat
  /-- FQ_CAP -/
  fqCap : Nat
  /-- OQ_CAP -/
  oqCap : Nat
  /-- ICAO_CACHE_LEN -/
  cacheLen : Nat
  /-- ICAO_TTL, in units of the `now` input -/
  ttl : Nat
  /-- ICAO_HASH, as data: the addresses at which it is not the default of R155, each with its value there (A6). An address is 24 bits, so
  every function of it is such a list. -/
  hash : List (W24 × W32)
  /-- MARK_BADSAMPLE -/
  markBad : W16
  /-- MARK_MESSAGEGO -/
  markGo : W16
  /-- MARK_OVERWRITE -/
  markOver : W16
  /-- PHASE_SEED_OFFSET -/
  seedOffset : Nat
  /-- TAIL_DECODE -/
  tailDecode : Bool
  /-- FRAMER_RESUME_SKIP -/
  resumeSkip : Nat
deriving DecidableEq, Repr

/-- The defaults of R6. DESIGN CHOICE (A3): the three capacities, which R6 leaves OPEN in 1..255, are 8, and MAX_BLOCK_BYTES, which R6
leaves OPEN, is the suggested 262144. -/
def Params.default : Params where
  maxBlockBytes := 262144
  iqCap := 8
  fqCap := 8
  oqCap := 8
  cacheLen := 1024
  ttl := 60
  hash := []
  markBad := 255
  markGo := 253
  markOver := 254
  seedOffset := 16
  tailDecode := false
  resumeSkip := 1

/-- The value of the `now` input at the n-th free draw: "a draw with no law" (R30; A4). -/
opaque Config.freeNow : Nat → W32

/-- The agent that moves at the n-th free choice, FE where true: "The order is free" (R15; A1). -/
opaque Config.freeChoice : Nat → Bool

/-- TRACK_FN where R183 states no property of it: any total function of (ewv, nsv) into 0..359 (A5). -/
opaque Config.trackFree : Int → Int → Fin 360

end Sys2Proof
end

