-- ==== Sys2Proof/Syntax.lean ====
section
/-! DEFINITION. The instruction set as syntax: the one inductive `Instr` with one constructor per row of spec/opcode_table.json, the
encoded forms an instruction arrives in, the entries of the agenda, and the names of the decoder's refusals. -/

namespace Sys2Proof

/-- One constructor per row of the opcode table, in the table's order (R12, 00_scope.md: host transactions, internal steps,
downlink formats). -/
inductive Instr where
  /-- RD r (R63, R187). -/
  | rdR (r : BitVec 6)
  /-- WR 0, 1 (START) (R63, R191). -/
  | wr0Start
  /-- WR 0, 2 (STOP) (R63, R192). -/
  | wr0Stop
  /-- WR 0, 3 (RESET) (R63, R193). -/
  | wr0Reset
  /-- WR 0, v (undefined command) (R63, R190). -/
  | wr0Undefined (v : W32)
  /-- WR 2, v (CFG write) (R63, R189). -/
  | wr2Cfg (v : W32)
  /-- WR r, v (other registers) (R63, R188). -/
  | wrOther (r : BitVec 6) (v : W32)
  /-- SUBMIT <bytes> (R63, R194). -/
  | submit (payload : List Byte)
  /-- POP (R63, R195). -/
  | pop
  /-- pseudo-transaction START (R67, R191). -/
  | start
  /-- pseudo-transaction STOP (R67, R192). -/
  | stop
  /-- pseudo-transaction RESET (R67, R193). -/
  | reset
  /-- pseudo-transaction CFG q, ae, f1, f2, c, m (R67, R189). -/
  | cfgWrite (q : Byte) (ae : Byte) (f1 : BitVec 1) (f2 : BitVec 1) (c : BitVec 1) (m : BitVec 1)
  /-- pseudo-transaction RDSTATUS (R67, R187). -/
  | rdStatus
  /-- step FE_TAKE, label 0x10 (R71, R129). -/
  | feTake
  /-- step FE_MAG, label 0x11 (R71, R90). -/
  | feMag
  /-- step FE_DEMOD, label 0x12 (R71, R94). -/
  | feDemod
  /-- step FE_FRAME, label 0x13 (R71, R113). -/
  | feFrame
  /-- step FE_EMIT, label 0x14 (R71, R130). -/
  | feEmit
  /-- step FE_HALT, label 0x15 (R71, R133). -/
  | feHalt
  /-- step DE_TAKE, label 0x20 (R71, R134). -/
  | deTake
  /-- step DE_DECODE, label 0x21 (R71, R138). -/
  | deDecode
  /-- step DE_EMIT, label 0x22 (R71, R135). -/
  | deEmit
  /-- DF 0, short air-air surveillance: 56 bits, class AP (R74, R145). -/
  | df0 (f3 : BitVec 3)
  /-- DF 1, not assigned: 56 bits, class OTHER (R74, R146). -/
  | df1 (f3 : BitVec 3)
  /-- DF 2, not assigned: 56 bits, class OTHER (R74, R146). -/
  | df2 (f3 : BitVec 3)
  /-- DF 3, not assigned: 56 bits, class OTHER (R74, R146). -/
  | df3 (f3 : BitVec 3)
  /-- DF 4, surveillance altitude reply: 56 bits, class AP (R74, R145). -/
  | df4 (f3 : BitVec 3)
  /-- DF 5, surveillance identity reply: 56 bits, class AP (R74, R145). -/
  | df5 (f3 : BitVec 3)
  /-- DF 6, not assigned: 56 bits, class OTHER (R74, R146). -/
  | df6 (f3 : BitVec 3)
  /-- DF 7, not assigned: 56 bits, class OTHER (R74, R146). -/
  | df7 (f3 : BitVec 3)
  /-- DF 8, not assigned: 56 bits, class OTHER (R74, R146). -/
  | df8 (f3 : BitVec 3)
  /-- DF 9, not assigned: 56 bits, class OTHER (R74, R146). -/
  | df9 (f3 : BitVec 3)
  /-- DF 10, not assigned: 56 bits, class OTHER (R74, R146). -/
  | df10 (f3 : BitVec 3)
  /-- DF 11, all-call reply: 56 bits, class PI (R74, R142). -/
  | df11 (f3 : BitVec 3)
  /-- DF 12, not assigned: 56 bits, class OTHER (R74, R146). -/
  | df12 (f3 : BitVec 3)
  /-- DF 13, not assigned: 56 bits, class OTHER (R74, R146). -/
  | df13 (f3 : BitVec 3)
  /-- DF 14, not assigned: 56 bits, class OTHER (R74, R146). -/
  | df14 (f3 : BitVec 3)
  /-- DF 15, not assigned: 56 bits, class OTHER (R74, R146). -/
  | df15 (f3 : BitVec 3)
  /-- DF 16, long air-air surveillance: 112 bits, class AP (R74, R145). -/
  | df16 (f3 : BitVec 3)
  /-- DF 17, extended squitter: 112 bits, class PI (R74, R142). -/
  | df17 (f3 : BitVec 3)
  /-- DF 18, extended squitter, non-transponder: 112 bits, class PI (R74, R142). -/
  | df18 (f3 : BitVec 3)
  /-- DF 19, military extended squitter: 112 bits, class PI (R74, R142). -/
  | df19 (f3 : BitVec 3)
  /-- DF 20, Comm-B altitude reply: 112 bits, class AP (R74, R145). -/
  | df20 (f3 : BitVec 3)
  /-- DF 21, Comm-B identity reply: 112 bits, class AP (R74, R145). -/
  | df21 (f3 : BitVec 3)
  /-- DF 22, not assigned: 112 bits, class OTHER (R74, R146). -/
  | df22 (f3 : BitVec 3)
  /-- DF 23, not assigned: 112 bits, class OTHER (R74, R146). -/
  | df23 (f3 : BitVec 3)
  /-- DF 24, Comm-D extended-length message: 112 bits, class AP (R74, R145). -/
  | df24 (f3 : BitVec 3)
  /-- DF 25, Comm-D extended-length message: 112 bits, class AP (R74, R145). -/
  | df25 (f3 : BitVec 3)
  /-- DF 26, Comm-D extended-length message: 112 bits, class AP (R74, R145). -/
  | df26 (f3 : BitVec 3)
  /-- DF 27, Comm-D extended-length message: 112 bits, class AP (R74, R145). -/
  | df27 (f3 : BitVec 3)
  /-- DF 28, Comm-D extended-length message: 112 bits, class AP (R74, R145). -/
  | df28 (f3 : BitVec 3)
  /-- DF 29, Comm-D extended-length message: 112 bits, class AP (R74, R145). -/
  | df29 (f3 : BitVec 3)
  /-- DF 30, Comm-D extended-length message: 112 bits, class AP (R74, R145). -/
  | df30 (f3 : BitVec 3)
  /-- DF 31, Comm-D extended-length message: 112 bits, class AP (R74, R145). -/
  | df31 (f3 : BitVec 3)
  /-- ME TC0 of a DF17 frame: no subfields decoded (R168). -/
  | meTc0 (st : BitVec 3)
  /-- ME TC1 of a DF17 frame: aircraft identification, 8 characters in bits 41-88 (R169). -/
  | meTc1 (st : BitVec 3)
  /-- ME TC2 of a DF17 frame: aircraft identification, 8 characters in bits 41-88 (R169). -/
  | meTc2 (st : BitVec 3)
  /-- ME TC3 of a DF17 frame: aircraft identification, 8 characters in bits 41-88 (R169). -/
  | meTc3 (st : BitVec 3)
  /-- ME TC4 of a DF17 frame: aircraft identification, 8 characters in bits 41-88 (R169). -/
  | meTc4 (st : BitVec 3)
  /-- ME TC5 of a DF17 frame: surface position: no subfields decoded (D34) (R168). -/
  | meTc5 (st : BitVec 3)
  /-- ME TC6 of a DF17 frame: surface position: no subfields decoded (D34) (R168). -/
  | meTc6 (st : BitVec 3)
  /-- ME TC7 of a DF17 frame: surface position: no subfields decoded (D34) (R168). -/
  | meTc7 (st : BitVec 3)
  /-- ME TC8 of a DF17 frame: surface position: no subfields decoded (D34) (R168). -/
  | meTc8 (st : BitVec 3)
  /-- ME TC9 of a DF17 frame: airborne position: AC12 (R170), T, F, raw CPR lat/lon (R171). -/
  | meTc9 (st : BitVec 3)
  /-- ME TC10 of a DF17 frame: airborne position: AC12 (R170), T, F, raw CPR lat/lon (R171). -/
  | meTc10 (st : BitVec 3)
  /-- ME TC11 of a DF17 frame: airborne position: AC12 (R170), T, F, raw CPR lat/lon (R171). -/
  | meTc11 (st : BitVec 3)
  /-- ME TC12 of a DF17 frame: airborne position: AC12 (R170), T, F, raw CPR lat/lon (R171). -/
  | meTc12 (st : BitVec 3)
  /-- ME TC13 of a DF17 frame: airborne position: AC12 (R170), T, F, raw CPR lat/lon (R171). -/
  | meTc13 (st : BitVec 3)
  /-- ME TC14 of a DF17 frame: airborne position: AC12 (R170), T, F, raw CPR lat/lon (R171). -/
  | meTc14 (st : BitVec 3)
  /-- ME TC15 of a DF17 frame: airborne position: AC12 (R170), T, F, raw CPR lat/lon (R171). -/
  | meTc15 (st : BitVec 3)
  /-- ME TC16 of a DF17 frame: airborne position: AC12 (R170), T, F, raw CPR lat/lon (R171). -/
  | meTc16 (st : BitVec 3)
  /-- ME TC17 of a DF17 frame: airborne position: AC12 (R170), T, F, raw CPR lat/lon (R171). -/
  | meTc17 (st : BitVec 3)
  /-- ME TC18 of a DF17 frame: airborne position: AC12 (R170), T, F, raw CPR lat/lon (R171). -/
  | meTc18 (st : BitVec 3)
  /-- ME TC19 ST0 of a DF17 frame: airborne velocity, other subtype: TC and ST only (R178). -/
  | meTc19St0
  /-- ME TC19 ST1 of a DF17 frame: airborne velocity over ground (R174). -/
  | meTc19St1
  /-- ME TC19 ST2 of a DF17 frame: airborne velocity over ground (R174). -/
  | meTc19St2
  /-- ME TC19 ST3 of a DF17 frame: airborne velocity, other subtype: TC and ST only (R178). -/
  | meTc19St3
  /-- ME TC19 ST4 of a DF17 frame: airborne velocity, other subtype: TC and ST only (R178). -/
  | meTc19St4
  /-- ME TC19 ST5 of a DF17 frame: airborne velocity, other subtype: TC and ST only (R178). -/
  | meTc19St5
  /-- ME TC19 ST6 of a DF17 frame: airborne velocity, other subtype: TC and ST only (R178). -/
  | meTc19St6
  /-- ME TC19 ST7 of a DF17 frame: airborne velocity, other subtype: TC and ST only (R178). -/
  | meTc19St7
  /-- ME TC20 of a DF17 frame: no subfields decoded (D34) (R168). -/
  | meTc20 (st : BitVec 3)
  /-- ME TC21 of a DF17 frame: no subfields decoded (D34) (R168). -/
  | meTc21 (st : BitVec 3)
  /-- ME TC22 of a DF17 frame: no subfields decoded (D34) (R168). -/
  | meTc22 (st : BitVec 3)
  /-- ME TC23 of a DF17 frame: no subfields decoded (D34) (R168). -/
  | meTc23 (st : BitVec 3)
  /-- ME TC24 of a DF17 frame: no subfields decoded (D34) (R168). -/
  | meTc24 (st : BitVec 3)
  /-- ME TC25 of a DF17 frame: no subfields decoded (D34) (R168). -/
  | meTc25 (st : BitVec 3)
  /-- ME TC26 of a DF17 frame: no subfields decoded (D34) (R168). -/
  | meTc26 (st : BitVec 3)
  /-- ME TC27 of a DF17 frame: no subfields decoded (D34) (R168). -/
  | meTc27 (st : BitVec 3)
  /-- ME TC28 of a DF17 frame: no subfields decoded (D34) (R168). -/
  | meTc28 (st : BitVec 3)
  /-- ME TC29 of a DF17 frame: no subfields decoded (D34) (R168). -/
  | meTc29 (st : BitVec 3)
  /-- ME TC30 of a DF17 frame: no subfields decoded (D34) (R168). -/
  | meTc30 (st : BitVec 3)
  /-- ME TC31 of a DF17 frame: no subfields decoded (D34) (R168). -/
  | meTc31 (st : BitVec 3)
deriving DecidableEq, Repr

/-- The encoded form of an instruction, by the table's formats: TXN40 words with their payload, words written as pseudo-transactions
(R67), step labels (R71), byte 0 of a Mode S frame (R74), byte 4 of a DF17 frame (R76). The formats are read in different places, so
equal bytes of two formats are different instructions. -/
inductive Encoded where
  /-- a 40-bit transaction word and its payload (R63) -/
  | txn (w : Txn) (payload : List Byte)
  /-- the 40-bit word of a pseudo-transaction (R67) -/
  | pseudo (w : Txn)
  /-- an 8-bit step label (R71) -/
  | label (b : Byte)
  /-- byte 0 of the frame DE decodes: DF and F3 (R72, R75) -/
  | dfByte (b : Byte)
  /-- byte 4 of the DF17 frame DE decodes: TC and ST (R76) -/
  | meByte (b : Byte)
deriving DecidableEq, Repr

/-- An entry of the agenda: what the environment and the schedule do next (R15, R57, R214, R218; A1, A17). -/
inductive Event where
  /-- an instruction is taken -/
  | run (e : Encoded)
  /-- the RST input is asserted (R218) -/
  | rst
deriving DecidableEq, Repr

/-- Why the decoder refuses an encoded form (R64; A14). -/
inductive DecodeError where
  /-- REG is not 0 where R63 says it must be -/
  | regNotZero
  /-- DATA is not 0 where R63 says it must be -/
  | dataNotZero
  /-- the payload does not have the length R63 says -/
  | payloadLength
  /-- the word is the expansion of no pseudo-transaction (R67) -/
  | notPseudo
  /-- the byte is the label of no step (R71) -/
  | unknownLabel
deriving DecidableEq, Repr

end Sys2Proof
end

