-- ==== Sys2Proof/WellFormed.lean ====
section
/-! DEFINITION. Which terms of `Instr` stand for an encodable instruction. The operand widths are in the types; what is left are the
three restrictions the table's rows put on their operands. -/

namespace Sys2Proof

/-- The checks on an instruction's operands, as a Bool:
`wr0Undefined v`: v is none of the commands 1, 2, 3 (R66, R190);
`wrOther r v`: r is neither CMD (0) nor CFG (2), which have rows of their own (R188);
`submit P`: the payload's length fits the 32-bit DATA field (R63). -/
def Instr.wellFormed : Instr → Bool
  | .wr0Undefined v => v != 1 && v != 2 && v != 3
  | .wrOther r _ => r != 0 && r != 2
  | .submit payload => decide (payload.length < 2 ^ 32)
  | .rdR _ => true
  | .wr0Start => true
  | .wr0Stop => true
  | .wr0Reset => true
  | .wr2Cfg _ => true
  | .pop => true
  | .start => true
  | .stop => true
  | .reset => true
  | .cfgWrite _ _ _ _ _ _ => true
  | .rdStatus => true
  | .feTake => true
  | .feMag => true
  | .feDemod => true
  | .feFrame => true
  | .feEmit => true
  | .feHalt => true
  | .deTake => true
  | .deDecode => true
  | .deEmit => true
  | .df0 _ => true
  | .df1 _ => true
  | .df2 _ => true
  | .df3 _ => true
  | .df4 _ => true
  | .df5 _ => true
  | .df6 _ => true
  | .df7 _ => true
  | .df8 _ => true
  | .df9 _ => true
  | .df10 _ => true
  | .df11 _ => true
  | .df12 _ => true
  | .df13 _ => true
  | .df14 _ => true
  | .df15 _ => true
  | .df16 _ => true
  | .df17 _ => true
  | .df18 _ => true
  | .df19 _ => true
  | .df20 _ => true
  | .df21 _ => true
  | .df22 _ => true
  | .df23 _ => true
  | .df24 _ => true
  | .df25 _ => true
  | .df26 _ => true
  | .df27 _ => true
  | .df28 _ => true
  | .df29 _ => true
  | .df30 _ => true
  | .df31 _ => true
  | .meTc0 _ => true
  | .meTc1 _ => true
  | .meTc2 _ => true
  | .meTc3 _ => true
  | .meTc4 _ => true
  | .meTc5 _ => true
  | .meTc6 _ => true
  | .meTc7 _ => true
  | .meTc8 _ => true
  | .meTc9 _ => true
  | .meTc10 _ => true
  | .meTc11 _ => true
  | .meTc12 _ => true
  | .meTc13 _ => true
  | .meTc14 _ => true
  | .meTc15 _ => true
  | .meTc16 _ => true
  | .meTc17 _ => true
  | .meTc18 _ => true
  | .meTc19St0 => true
  | .meTc19St1 => true
  | .meTc19St2 => true
  | .meTc19St3 => true
  | .meTc19St4 => true
  | .meTc19St5 => true
  | .meTc19St6 => true
  | .meTc19St7 => true
  | .meTc20 _ => true
  | .meTc21 _ => true
  | .meTc22 _ => true
  | .meTc23 _ => true
  | .meTc24 _ => true
  | .meTc25 _ => true
  | .meTc26 _ => true
  | .meTc27 _ => true
  | .meTc28 _ => true
  | .meTc29 _ => true
  | .meTc30 _ => true
  | .meTc31 _ => true

end Sys2Proof
end

