-- ==== Sys2Proof/Decode.lean ====
section
/-! DEFINITION. The decoder, total on every encoded form and refusing by name, and the encoder, both written from R63–R68, R71, R74 and
R76 (30_encoding.md); and the reading of a word numbered as the opcode table numbers it. -/

namespace Sys2Proof

/-! ### The fields of a transaction word (R63) -/

/-- KIND, T[39:38]. -/
def txnKind (w : Txn) : BitVec 2 := w.extractLsb' 38 2

/-- REG, T[37:32]. -/
def txnReg (w : Txn) : BitVec 6 := w.extractLsb' 32 6

/-- DATA, T[31:0], unsigned, neither sign-extended nor scaled (R68). -/
def txnData (w : Txn) : W32 := w.extractLsb' 0 32

/-- DATA of `CFG q, ae, f1, f2, c, m` (R67): (m<<19) | (c<<18) | (f2<<17) | (f1<<16) | (ae<<8) | q. -/
def cfgData (q ae : Byte) (f1 f2 c m : BitVec 1) : W32 := 0#12 ++ m ++ c ++ f2 ++ f1 ++ ae ++ q

/-! ### The decoder -/

/-- A REG_WRITE's row by its register and value (R66, R188). -/
def decodeRegWrite (r : BitVec 6) (v : W32) : Instr :=
  if r = 0 then
    if v = 1 then .wr0Start else if v = 2 then .wr0Stop else if v = 3 then .wr0Reset else .wr0Undefined v
  else if r = 2 then .wr2Cfg v
  else .wrOther r v

/-- A transaction word with its payload (R63); any other word or payload is refused (R64). -/
def decodeTxn (w : Txn) (payload : List Byte) : Except DecodeError Instr :=
  if txnKind w = 0 then
    if txnData w ≠ 0 then .error .dataNotZero
    else if payload ≠ [] then .error .payloadLength
    else .ok (.rdR (txnReg w))
  else if txnKind w = 1 then
    if payload ≠ [] then .error .payloadLength
    else .ok (decodeRegWrite (txnReg w) (txnData w))
  else if txnKind w = 2 then
    if txnReg w ≠ 0 then .error .regNotZero
    else if payload.length ≠ (txnData w).toNat then .error .payloadLength
    else .ok (.submit payload)
  else
    if txnReg w ≠ 0 then .error .regNotZero
    else if txnData w ≠ 0 then .error .dataNotZero
    else if payload ≠ [] then .error .payloadLength
    else .ok .pop

/-- A word written in the pseudo-transaction form (R67). -/
def decodePseudo (w : Txn) : Except DecodeError Instr :=
  if w = 0x4000000001 then .ok .start
  else if w = 0x4000000002 then .ok .stop
  else if w = 0x4000000003 then .ok .reset
  else if w = 0x0100000000 then .ok .rdStatus
  else if w.extractLsb' 20 20 = 0b01000010000000000000#20 then
    .ok (.cfgWrite (w.extractLsb' 0 8) (w.extractLsb' 8 8) (w.extractLsb' 16 1) (w.extractLsb' 17 1) (w.extractLsb' 18 1)
      (w.extractLsb' 19 1))
  else .error .notPseudo

/-- A step label (R71). -/
def decodeLabel (b : Byte) : Except DecodeError Instr :=
  if b = 0x10 then .ok .feTake
  else if b = 0x11 then .ok .feMag
  else if b = 0x12 then .ok .feDemod
  else if b = 0x13 then .ok .feFrame
  else if b = 0x14 then .ok .feEmit
  else if b = 0x15 then .ok .feHalt
  else if b = 0x20 then .ok .deTake
  else if b = 0x21 then .ok .deDecode
  else if b = 0x22 then .ok .deEmit
  else .error .unknownLabel

/-- The row of a downlink format with its third field (R74, R75). -/
def Instr.ofDf (df : BitVec 5) (f3 : BitVec 3) : Instr :=
  match df.toNat with
  | 0 => .df0 f3
  | 1 => .df1 f3
  | 2 => .df2 f3
  | 3 => .df3 f3
  | 4 => .df4 f3
  | 5 => .df5 f3
  | 6 => .df6 f3
  | 7 => .df7 f3
  | 8 => .df8 f3
  | 9 => .df9 f3
  | 10 => .df10 f3
  | 11 => .df11 f3
  | 12 => .df12 f3
  | 13 => .df13 f3
  | 14 => .df14 f3
  | 15 => .df15 f3
  | 16 => .df16 f3
  | 17 => .df17 f3
  | 18 => .df18 f3
  | 19 => .df19 f3
  | 20 => .df20 f3
  | 21 => .df21 f3
  | 22 => .df22 f3
  | 23 => .df23 f3
  | 24 => .df24 f3
  | 25 => .df25 f3
  | 26 => .df26 f3
  | 27 => .df27 f3
  | 28 => .df28 f3
  | 29 => .df29 f3
  | 30 => .df30 f3
  | _ => .df31 f3

/-- The row of an ME type code and subtype (R76). -/
def Instr.ofMe (tc : BitVec 5) (st : BitVec 3) : Instr :=
  match tc.toNat with
  | 0 => .meTc0 st
  | 1 => .meTc1 st
  | 2 => .meTc2 st
  | 3 => .meTc3 st
  | 4 => .meTc4 st
  | 5 => .meTc5 st
  | 6 => .meTc6 st
  | 7 => .meTc7 st
  | 8 => .meTc8 st
  | 9 => .meTc9 st
  | 10 => .meTc10 st
  | 11 => .meTc11 st
  | 12 => .meTc12 st
  | 13 => .meTc13 st
  | 14 => .meTc14 st
  | 15 => .meTc15 st
  | 16 => .meTc16 st
  | 17 => .meTc17 st
  | 18 => .meTc18 st
  | 19 =>
    match st.toNat with
    | 0 => .meTc19St0
    | 1 => .meTc19St1
    | 2 => .meTc19St2
    | 3 => .meTc19St3
    | 4 => .meTc19St4
    | 5 => .meTc19St5
    | 6 => .meTc19St6
    | _ => .meTc19St7
  | 20 => .meTc20 st
  | 21 => .meTc21 st
  | 22 => .meTc22 st
  | 23 => .meTc23 st
  | 24 => .meTc24 st
  | 25 => .meTc25 st
  | 26 => .meTc26 st
  | 27 => .meTc27 st
  | 28 => .meTc28 st
  | 29 => .meTc29 st
  | 30 => .meTc30 st
  | _ => .meTc31 st

/-- Byte 0 of a frame: DF is message bits 1–5, F3 bits 6–8 (R72, R75). -/
def decodeDf (b : Byte) : Instr := Instr.ofDf (b.extractLsb' 3 5) (b.extractLsb' 0 3)

/-- Byte 4 of a DF17 frame: TC is message bits 33–37, ST bits 38–40 (R76). -/
def decodeMe (b : Byte) : Instr := Instr.ofMe (b.extractLsb' 3 5) (b.extractLsb' 0 3)

/-- The decoder: total, refusing by name. -/
def decode : Encoded → Except DecodeError Instr
  | .txn w payload => decodeTxn w payload
  | .pseudo w => decodePseudo w
  | .label b => decodeLabel b
  | .dfByte b => .ok (decodeDf b)
  | .meByte b => .ok (decodeMe b)

/-! ### The encoder -/

/-- The encoded form of an instruction. -/
def encode : Instr → Encoded
  | .rdR r => .txn (0b00#2 ++ r ++ 0#32) []
  | .wr0Start => .txn (0b01#2 ++ 0#6 ++ 1#32) []
  | .wr0Stop => .txn (0b01#2 ++ 0#6 ++ 2#32) []
  | .wr0Reset => .txn (0b01#2 ++ 0#6 ++ 3#32) []
  | .wr0Undefined v => .txn (0b01#2 ++ 0#6 ++ v) []
  | .wr2Cfg v => .txn (0b01#2 ++ 2#6 ++ v) []
  | .wrOther r v => .txn (0b01#2 ++ r ++ v) []
  | .submit payload => .txn (0b10#2 ++ 0#6 ++ BitVec.ofNat 32 payload.length) payload
  | .pop => .txn (0b11#2 ++ 0#6 ++ 0#32) []
  | .start => .pseudo (0b01#2 ++ 0#6 ++ 1#32)
  | .stop => .pseudo (0b01#2 ++ 0#6 ++ 2#32)
  | .reset => .pseudo (0b01#2 ++ 0#6 ++ 3#32)
  | .cfgWrite q ae f1 f2 c m => .pseudo (0b01#2 ++ 2#6 ++ cfgData q ae f1 f2 c m)
  | .rdStatus => .pseudo (0b00#2 ++ 1#6 ++ 0#32)
  | .feTake => .label 0x10
  | .feMag => .label 0x11
  | .feDemod => .label 0x12
  | .feFrame => .label 0x13
  | .feEmit => .label 0x14
  | .feHalt => .label 0x15
  | .deTake => .label 0x20
  | .deDecode => .label 0x21
  | .deEmit => .label 0x22
  | .df0 f3 => .dfByte (0#5 ++ f3)
  | .df1 f3 => .dfByte (1#5 ++ f3)
  | .df2 f3 => .dfByte (2#5 ++ f3)
  | .df3 f3 => .dfByte (3#5 ++ f3)
  | .df4 f3 => .dfByte (4#5 ++ f3)
  | .df5 f3 => .dfByte (5#5 ++ f3)
  | .df6 f3 => .dfByte (6#5 ++ f3)
  | .df7 f3 => .dfByte (7#5 ++ f3)
  | .df8 f3 => .dfByte (8#5 ++ f3)
  | .df9 f3 => .dfByte (9#5 ++ f3)
  | .df10 f3 => .dfByte (10#5 ++ f3)
  | .df11 f3 => .dfByte (11#5 ++ f3)
  | .df12 f3 => .dfByte (12#5 ++ f3)
  | .df13 f3 => .dfByte (13#5 ++ f3)
  | .df14 f3 => .dfByte (14#5 ++ f3)
  | .df15 f3 => .dfByte (15#5 ++ f3)
  | .df16 f3 => .dfByte (16#5 ++ f3)
  | .df17 f3 => .dfByte (17#5 ++ f3)
  | .df18 f3 => .dfByte (18#5 ++ f3)
  | .df19 f3 => .dfByte (19#5 ++ f3)
  | .df20 f3 => .dfByte (20#5 ++ f3)
  | .df21 f3 => .dfByte (21#5 ++ f3)
  | .df22 f3 => .dfByte (22#5 ++ f3)
  | .df23 f3 => .dfByte (23#5 ++ f3)
  | .df24 f3 => .dfByte (24#5 ++ f3)
  | .df25 f3 => .dfByte (25#5 ++ f3)
  | .df26 f3 => .dfByte (26#5 ++ f3)
  | .df27 f3 => .dfByte (27#5 ++ f3)
  | .df28 f3 => .dfByte (28#5 ++ f3)
  | .df29 f3 => .dfByte (29#5 ++ f3)
  | .df30 f3 => .dfByte (30#5 ++ f3)
  | .df31 f3 => .dfByte (31#5 ++ f3)
  | .meTc0 st => .meByte (0#5 ++ st)
  | .meTc1 st => .meByte (1#5 ++ st)
  | .meTc2 st => .meByte (2#5 ++ st)
  | .meTc3 st => .meByte (3#5 ++ st)
  | .meTc4 st => .meByte (4#5 ++ st)
  | .meTc5 st => .meByte (5#5 ++ st)
  | .meTc6 st => .meByte (6#5 ++ st)
  | .meTc7 st => .meByte (7#5 ++ st)
  | .meTc8 st => .meByte (8#5 ++ st)
  | .meTc9 st => .meByte (9#5 ++ st)
  | .meTc10 st => .meByte (10#5 ++ st)
  | .meTc11 st => .meByte (11#5 ++ st)
  | .meTc12 st => .meByte (12#5 ++ st)
  | .meTc13 st => .meByte (13#5 ++ st)
  | .meTc14 st => .meByte (14#5 ++ st)
  | .meTc15 st => .meByte (15#5 ++ st)
  | .meTc16 st => .meByte (16#5 ++ st)
  | .meTc17 st => .meByte (17#5 ++ st)
  | .meTc18 st => .meByte (18#5 ++ st)
  | .meTc19St0 => .meByte (19#5 ++ 0#3)
  | .meTc19St1 => .meByte (19#5 ++ 1#3)
  | .meTc19St2 => .meByte (19#5 ++ 2#3)
  | .meTc19St3 => .meByte (19#5 ++ 3#3)
  | .meTc19St4 => .meByte (19#5 ++ 4#3)
  | .meTc19St5 => .meByte (19#5 ++ 5#3)
  | .meTc19St6 => .meByte (19#5 ++ 6#3)
  | .meTc19St7 => .meByte (19#5 ++ 7#3)
  | .meTc20 st => .meByte (20#5 ++ st)
  | .meTc21 st => .meByte (21#5 ++ st)
  | .meTc22 st => .meByte (22#5 ++ st)
  | .meTc23 st => .meByte (23#5 ++ st)
  | .meTc24 st => .meByte (24#5 ++ st)
  | .meTc25 st => .meByte (25#5 ++ st)
  | .meTc26 st => .meByte (26#5 ++ st)
  | .meTc27 st => .meByte (27#5 ++ st)
  | .meTc28 st => .meByte (28#5 ++ st)
  | .meTc29 st => .meByte (29#5 ++ st)
  | .meTc30 st => .meByte (30#5 ++ st)
  | .meTc31 st => .meByte (31#5 ++ st)

/-! ### Words numbered as the opcode table numbers them -/

/-- The nine step labels (R71). -/
def stepLabels : List Byte := [0x10, 0x11, 0x12, 0x13, 0x14, 0x15, 0x20, 0x21, 0x22]

/-- The encoded form that a table word of nbits bits stands for. A 40-bit word is a transaction word, with a payload of zeros of the
length DATA says for a SUBMIT_BLOCK. An 8-bit word stands in up to three formats of the table at once (a label, a DF byte, an ME byte);
the row that fixes more bits is taken, as the table's own note on WR_0__v does, and among rows that fix as many the earlier row (A10). -/
def tableEncoded (nbits w : Nat) : Option Encoded :=
  if nbits = 40 then
    let t := BitVec.ofNat 40 w
    some (.txn t (if txnKind t = 2 then List.replicate (txnData t).toNat 0 else []))
  else if nbits = 8 then
    let b := BitVec.ofNat 8 w
    if b ∈ stepLabels then some (.label b)
    else if b.extractLsb' 3 5 = 19#5 then some (.meByte b)
    else some (.dfByte b)
  else none

/-- The instruction the decoder reads from a table word, none where it refuses. -/
def decodeTableWord (nbits w : Nat) : Option Instr :=
  match tableEncoded nbits w with
  | some e => (decode e).toOption
  | none => none

end Sys2Proof
end

