-- ==== Sys2Proof/Machine/State.lean ====
section
/-! DEFINITION. The state of the block as plain data (10_state.md), the records it holds, the reasons a step can stop, and the state
after reset. -/

namespace Sys2Proof.Machine

/-! ### The names of modes, phases and outcomes -/

/-- RUN_STATE (R16). -/
inductive RunState where
  | idle
  | running
  | stopping
  | halted
deriving DecidableEq, Repr

/-- FE_PHASE (R26). -/
inductive FePhase where
  | idle
  | mag
  | demod
  | frame
  | emit
  | halted
deriving DecidableEq, Repr

/-- DE_PHASE (R29). -/
inductive DePhase where
  | idle
  | decode
  | emit
  | halted
deriving DecidableEq, Repr

/-- The bit of FAULT that `raise Fault` sets (R20, R202). -/
inductive FaultCode where
  | oddLen
  | oversize
  | cfgWhileRunning
  | badCmd
deriving DecidableEq, Repr

/-- The eleven event counters (R21). -/
inductive Counter where
  | blkIn
  | blkDrop
  | blkDiscard
  | blkDone
  | frmOut
  | frmRej
  | msgDirect
  | msgFixed
  | msgAp
  | msgFail
  | msgOut
deriving DecidableEq, Repr

/-- The two lengths of a Mode S message, 56 and 112 bits (R72). -/
inductive FrameLen where
  | short
  | long
deriving DecidableEq, Repr

/-- The `status` of a decode, the CRC outcome (R84, R138). -/
inductive CrcStatus where
  | directOk
  | fixed1
  | fixed2
  | apRecovered
  | failed
deriving DecidableEq, Repr

/-- How the trailing 24 bits relate to the checksum (R78). -/
inductive DfClass where
  | pi
  | ap
  | other
deriving DecidableEq, Repr

/-- Where `addr` came from (R84). -/
inductive AddrKind where
  | none
  | aa
  | apCandidate
  | apRecovered
deriving DecidableEq, Repr

/-- The unit flag of AC13 (R84). -/
inductive AltUnit where
  | feet
  | meters
deriving DecidableEq, Repr

/-! ### The records that move through the block -/

/-- A RawFrame (R70). `bit_length` and `byte_length` are `len.bits` and `len.bytes` (Machine/Operands.lean): one fact, stored once. -/
structure RawFrame where
  bytes : List Byte
  len : FrameLen
deriving DecidableEq, Repr

/-- An item of FQ: a frame or the marker END (R24). -/
inductive FqItem where
  | frame (f : RawFrame)
  | endMark
deriving DecidableEq, Repr

/-- A DecodedMessage, the fields of R84 in its order; a structure without a packed layout (R85). -/
structure DecodedMessage where
  df : BitVec 5
  nBits : FrameLen
  status : CrcStatus
  cls : DfClass
  syndrome : W24
  errCount : Nat
  errBit0 : Option Nat
  errBit1 : Option Nat
  addr : W24
  addrKind : AddrKind
  msg : List Byte
  f3 : BitVec 3
  drValid : Bool
  dr : BitVec 5
  um : BitVec 6
  altValid : Bool
  alt : Int
  altUnit : AltUnit
  idValid : Bool
  idA : BitVec 3
  idB : BitVec 3
  idC : BitVec 3
  idD : BitVec 3
  squawk : Nat
  tcValid : Bool
  tc : BitVec 5
  st : BitVec 3
  flightValid : Bool
  flight : List Char
  posValid : Bool
  cprT : BitVec 1
  cprF : BitVec 1
  cprLat : BitVec 17
  cprLon : BitVec 17
  velValid : Bool
  ewDir : BitVec 1
  ew : BitVec 10
  nsDir : BitVec 1
  ns : BitVec 10
  vrSrc : BitVec 1
  vrSign : BitVec 1
  vr : BitVec 9
  speed : Nat
  track : Nat
  unitPref : BitVec 1
deriving DecidableEq, Repr

/-- A slot of the ICAO cache (R31). -/
structure CacheSlot where
  valid : Bool
  addr : W24
  ts : W32
deriving DecidableEq, Repr

/-- What a slot holds after reset (R33). -/
def CacheSlot.empty : CacheSlot := { valid := false, addr := 0, ts := 0 }

/-- The eleven 32-bit counters (R21). -/
structure Counters where
  blkIn : W32
  blkDrop : W32
  blkDiscard : W32
  blkDone : W32
  frmOut : W32
  frmRej : W32
  msgDirect : W32
  msgFixed : W32
  msgAp : W32
  msgFail : W32
  msgOut : W32
deriving DecidableEq, Repr

/-- Every counter at 0 (R33). -/
def Counters.zero : Counters where
  blkIn := 0
  blkDrop := 0
  blkDiscard := 0
  blkDone := 0
  frmOut := 0
  frmRej := 0
  msgDirect := 0
  msgFixed := 0
  msgAp := 0
  msgFail := 0
  msgOut := 0

/-- The response of a host transaction (R65). -/
inductive Response where
  /-- a REG_WRITE returns nothing; also what the port holds when no transaction has been answered -/
  | nothing
  /-- a REG_READ's 32-bit value -/
  | value (v : W32)
  /-- a SUBMIT_BLOCK's `accepted` bit -/
  | accepted (a : Bool)
  /-- a POP_MSG with OQ empty -/
  | empty
  /-- a POP_MSG's record -/
  | record (m : DecodedMessage)
deriving DecidableEq, Repr

/-! ### The state -/

/-- The block buffer's storage: (address, byte) cells with rising addresses and no cell that holds 0, what an unlisted address reads as
(A12). -/
abbrev Memory := List Host.Cell

/-- Everything the spec gives the block (R15–R31), and the model's own input and output fields, marked so. -/
structure State where
  /-- the model's own: the parameters of R6, which no step writes (A3) -/
  params : Params
  /-- RUN_STATE (R16) -/
  runState : RunState
  /-- CFG (R17) -/
  cfg : W32
  /-- FAULT (R20) -/
  fault : W32
  /-- the counters (R21) -/
  counters : Counters
  /-- IQ (R23), head first -/
  iq : List (List Byte)
  /-- FQ (R24), head first -/
  fq : List FqItem
  /-- OQ (R25), head first -/
  oq : List DecodedMessage
  /-- FE_PHASE (R26) -/
  fePhase : FePhase
  /-- the current block's length L, none where FE holds no block (R26) -/
  blkLen : Option Nat
  /-- the block buffer (R45–R48) -/
  mem : Memory
  /-- PENDING (R26) -/
  pending : List RawFrame
  /-- DE_PHASE (R29) -/
  dePhase : DePhase
  /-- the current RawFrame F (R29) -/
  frame : Option RawFrame
  /-- the record M (R29) -/
  msg : Option DecodedMessage
  /-- the ICAO cache RAM (R31): (slot, contents) with rising slots, a slot that is not listed holds `CacheSlot.empty` (A21) -/
  cache : List (Nat × CacheSlot)
  /-- the model's own output port: the response of the last host transaction (R65; A8) -/
  resp : Response
  /-- the model's own input: what the environment and the schedule do next, first first (A1) -/
  agenda : List Event
  /-- the model's own input: the values the platform drives on `now`, one per DE_DECODE (R30; A4) -/
  nowIn : List W32
  /-- the model's own: how many free values have been drawn (A4) -/
  draws : Nat
deriving DecidableEq, Repr

/-- The reasons for which the model stops with a fault. The block's own faults (R202) stop nothing: they are bits of `State.fault`. -/
inductive Fault where
  /-- `step` raises it where `params` breaks a constraint of R6, which "a model must check on its arguments". Safe: no such machine is
  built, and the model says nothing about one (A19). -/
  | badParameters
deriving DecidableEq, Repr

/-- The reasons for which the model gives no meaning. -/
inductive Refusal where
  /-- Raised by an arm of exec whose instruction has no meaning yet; no arm of this model does so. Safe. -/
  | notModelled (mnemonic : String)
  /-- `step` raises it where the next entry of the agenda is no instruction: "A model's transaction decoder refuses any other 40-bit word
  or payload" (R64; A14). Safe. -/
  | malformed (e : DecodeError)
deriving DecidableEq, Repr

/-- The block after reset (R33, R217), with the model's own fields as A1, A3, A4 and A8 name them. -/
def State.reset : State where
  params := Params.default
  runState := .idle
  cfg := 0x0005050A
  fault := 0
  counters := Counters.zero
  iq := []
  fq := []
  oq := []
  fePhase := .idle
  blkLen := none
  mem := []
  pending := []
  dePhase := .idle
  frame := none
  msg := none
  cache := []
  resp := .nothing
  agenda := []
  nowIn := []
  draws := 0

end Sys2Proof.Machine
end

