-- ==== Sys2Proof/Machine/Ops.lean ====
section
/-! DEFINITION. The named operations over storage, registers and queues: sparse storage in canonical form, the block buffer's bytes and
words, the counters, `raise Fault`, the FIFO queues, the reset sequence, and the sampling of the inputs. -/

namespace Sys2Proof.Machine

/-! ### Sparse storage in one canonical form -/

/-- What key k holds; a key that is not listed holds d. -/
def sparseRead {α : Type} (d : α) : List (Nat × α) → Nat → α
  | [], _ => d
  | (a, v) :: l, k => if k = a then v else sparseRead d l k

/-- Key k holds v afterwards; writing d removes the entry. -/
def sparseWrite {α : Type} [DecidableEq α] (d : α) : List (Nat × α) → Nat → α → List (Nat × α)
  | [], k, v => if v = d then [] else [(k, v)]
  | (a, w) :: l, k, v =>
    if k < a then (if v = d then (a, w) :: l else (k, v) :: (a, w) :: l)
    else if k = a then (if v = d then l else (k, v) :: l)
    else (a, w) :: sparseWrite d l k v

/-- The canonical form: keys strictly rising, and no entry equal to what an unlisted key holds. -/
abbrev sparseWf {α : Type} [DecidableEq α] (d : α) (l : List (Nat × α)) : Prop :=
  l.Pairwise (fun p q => p.1 < q.1) ∧ ∀ p ∈ l, p.2 ≠ d

/-! ### The block buffer (20_memory.md) -/

/-- What an unlisted byte of the buffer reads as (A12). -/
def Memory.unlisted : Byte := 0

/-- The canonical form of the buffer's storage. -/
abbrev Memory.wf (m : Memory) : Prop := sparseWf Memory.unlisted m

/-- B[a] (R46). -/
def Memory.read (m : Memory) (a : Nat) : Byte := sparseRead Memory.unlisted m a

/-- B[a] <- v. -/
def Memory.write (m : Memory) (a : Nat) (v : Byte) : Memory := sparseWrite Memory.unlisted m a v

/-- W[k]: the byte at the lower offset is the less significant (R47, R48). -/
def Memory.word (m : Memory) (k : Nat) : W16 := m.read (2 * k + 1) ++ m.read (2 * k)

/-- W[k] <- v (R47). -/
def Memory.setWord (m : Memory) (k : Nat) (v : W16) : Memory :=
  (m.write (2 * k) (v.extractLsb' 0 8)).write (2 * k + 1) (v.extractLsb' 8 8)

/-- The n bytes from address a on, walking the cells once. -/
def Memory.loadFrom : Memory → Nat → Nat → List Byte
  | _, _, 0 => []
  | [], a, n + 1 => Memory.unlisted :: Memory.loadFrom [] (a + 1) n
  | (k, v) :: m, a, n + 1 =>
    if k = a then v :: Memory.loadFrom m (a + 1) n else Memory.unlisted :: Memory.loadFrom ((k, v) :: m) (a + 1) n

/-- B[0..n-1]. -/
def Memory.load (m : Memory) (n : Nat) : List Byte := m.loadFrom 0 n

/-- The cells of bytes that lie from address a on. -/
def Memory.cellsFrom : Nat → List Byte → Memory
  | _, [] => []
  | a, b :: bs => if b = Memory.unlisted then Memory.cellsFrom (a + 1) bs else (a, b) :: Memory.cellsFrom (a + 1) bs

/-- B[0..n-1] <- bs, where bs has n bytes. -/
def Memory.store (m : Memory) (bs : List Byte) : Memory :=
  Memory.cellsFrom 0 bs ++ m.filter (fun c => bs.length ≤ c.1)

/-- The word view of bytes (R47). -/
def wordsOfBytes : List Byte → List W16
  | lo :: hi :: bs => (hi ++ lo) :: wordsOfBytes bs
  | _ => []

/-- The byte view of words (R47). -/
def bytesOfWords : List W16 → List Byte
  | [] => []
  | w :: ws => w.extractLsb' 0 8 :: w.extractLsb' 8 8 :: bytesOfWords ws

/-- N, the number of words of the current block (R26). -/
def State.wordCount (s : State) : Nat := s.blkLen.getD 0 / 2

/-- W[0..N-1] of the current block. -/
def State.words (s : State) : List W16 := wordsOfBytes (s.mem.load (2 * s.wordCount))

/-- The block buffer with the words ws from W[0] on. -/
def State.setWords (s : State) (ws : List W16) : State := { s with mem := s.mem.store (bytesOfWords ws) }

/-! ### Counters (R21) -/

/-- The counter c. -/
def Counters.get (n : Counters) : Counter → W32
  | .blkIn => n.blkIn
  | .blkDrop => n.blkDrop
  | .blkDiscard => n.blkDiscard
  | .blkDone => n.blkDone
  | .frmOut => n.frmOut
  | .frmRej => n.frmRej
  | .msgDirect => n.msgDirect
  | .msgFixed => n.msgFixed
  | .msgAp => n.msgAp
  | .msgFail => n.msgFail
  | .msgOut => n.msgOut

/-- The counter c increased by k, modulo 2^32. -/
def Counters.add (n : Counters) (c : Counter) (k : Nat) : Counters :=
  match c with
  | .blkIn => { n with blkIn := n.blkIn + BitVec.ofNat 32 k }
  | .blkDrop => { n with blkDrop := n.blkDrop + BitVec.ofNat 32 k }
  | .blkDiscard => { n with blkDiscard := n.blkDiscard + BitVec.ofNat 32 k }
  | .blkDone => { n with blkDone := n.blkDone + BitVec.ofNat 32 k }
  | .frmOut => { n with frmOut := n.frmOut + BitVec.ofNat 32 k }
  | .frmRej => { n with frmRej := n.frmRej + BitVec.ofNat 32 k }
  | .msgDirect => { n with msgDirect := n.msgDirect + BitVec.ofNat 32 k }
  | .msgFixed => { n with msgFixed := n.msgFixed + BitVec.ofNat 32 k }
  | .msgAp => { n with msgAp := n.msgAp + BitVec.ofNat 32 k }
  | .msgFail => { n with msgFail := n.msgFail + BitVec.ofNat 32 k }
  | .msgOut => { n with msgOut := n.msgOut + BitVec.ofNat 32 k }

/-- `drop(counter)` for k units, and every other count of k events (R9, R21). -/
def State.count (s : State) (c : Counter) (k : Nat) : State := { s with counters := s.counters.add c k }

/-! ### Faults (R201) -/

/-- The bit number of a fault code (R202). -/
def FaultCode.bit : FaultCode → Nat
  | .oddLen => 0
  | .oversize => 1
  | .cfgWhileRunning => 2
  | .badCmd => 3

/-- `raise Fault(code)`: "sets FAULT[code] <- 1 and does nothing else" (R201). The block has no trap entry and no trap return (R210). -/
def State.raise (s : State) (c : FaultCode) : State := { s with fault := s.fault ||| (1#32 <<< c.bit) }

/-! ### Responses -/

/-- The response of a host transaction goes to the port (R65). -/
def State.respond (s : State) (r : Response) : State := { s with resp := r }

/-! ### Queues (R125) -/

/-- `Enqueue(Q, x)`: at the tail. Its users test the capacity. -/
def enqueue {α : Type} (q : List α) (x : α) : List α := q ++ [x]

/-- FQ has room for one item (R127). -/
def State.fqRoom (s : State) : Bool := decide (s.fq.length < s.params.fqCap)

/-- IQ has room for one block (R126). -/
def State.iqRoom (s : State) : Bool := decide (s.iq.length < s.params.iqCap)

/-- OQ has room for one record (R128). -/
def State.oqRoom (s : State) : Bool := decide (s.oq.length < s.params.oqCap)

/-! ### Reset (R217) -/

/-- The reset sequence: every state element takes its value of R33. The parameters and the inputs are no state (R34, R220) and stay. -/
def State.resetBlock (s : State) : State :=
  { State.reset with params := s.params, agenda := s.agenda, nowIn := s.nowIn, draws := s.draws }

/-! ### Inputs -/

/-- The `now` input as DE samples it (R30): the next value the platform drives, or a free value (A4). -/
def State.now (s : State) : W32 :=
  match s.nowIn with
  | t :: _ => t
  | [] => Config.freeNow s.draws

/-- The state after `now` has been sampled. -/
def State.afterNow (s : State) : State :=
  match s.nowIn with
  | _ :: ts => { s with nowIn := ts }
  | [] => { s with draws := s.draws + 1 }

/-- The constraints of R6 on the parameters. -/
def paramsOk (p : Params) : Bool :=
  decide (p.markBad ≠ p.markGo ∧ p.markBad ≠ p.markOver ∧ p.markGo ≠ p.markOver
    ∧ 1 < p.markBad ∧ 1 < p.markGo ∧ 1 < p.markOver
    ∧ 1 ≤ p.iqCap ∧ p.iqCap ≤ 255 ∧ 1 ≤ p.fqCap ∧ p.fqCap ≤ 255 ∧ 1 ≤ p.oqCap ∧ p.oqCap ≤ 255
    ∧ (p.seedOffset = 0 ∨ p.seedOffset = 16) ∧ p.resumeSkip ≤ 1 ∧ p.maxBlockBytes % 2 = 0)
  && (List.range 25).any (fun k => p.cacheLen == 2 ^ k)

/-- A step that is taken where its agent enables it, and otherwise holds: "it is not enabled and changes nothing" (R10, R127; A2). -/
def whenEnabled (enabled : Bool) (f : State → State) (s : State) : Host.Outcome State Fault Refusal :=
  .next (if enabled then f s else s)

end Sys2Proof.Machine
end

