-- ==== Sys2Proof/Machine/Operands.lean ====
section
/-! DEFINITION. The operand forms: the fields of CFG, the bits of a Mode S message, the lengths of frames, the numeric codes of the
enumerations, and the downlink-format classes. -/

namespace Sys2Proof.Machine

/-! ### The fields of CFG (R17) -/

/-- CFG.QUALITY. -/
def cfgQuality (c : W32) : Byte := c.extractLsb' 0 8

/-- CFG.ALLOWED_ERRORS. -/
def cfgAllowedErrors (c : W32) : Nat := (c.extractLsb' 8 8).toNat

/-- CFG.FIX1_EN. -/
def cfgFix1 (c : W32) : Bool := c.getLsbD 16

/-- CFG.FIX2_EN. -/
def cfgFix2 (c : W32) : Bool := c.getLsbD 17

/-- CFG.CRC_CHECK_EN. -/
def cfgCrcCheck (c : W32) : Bool := c.getLsbD 18

/-- CFG.METRIC. -/
def cfgMetric (c : W32) : BitVec 1 := c.extractLsb' 19 1

/-- What a CFG write stores of v: zext_32(v[19:0]) (R189). -/
def cfgOfWrite (v : W32) : W32 := (v.extractLsb' 0 20).setWidth 32

/-! ### Lengths (R70, R72) -/

/-- `bit_length`. -/
def FrameLen.bits : FrameLen → Nat
  | .short => 56
  | .long => 112

/-- `byte_length` = bit_length / 8. -/
def FrameLen.bytes : FrameLen → Nat
  | .short => 7
  | .long => 14

/-- The length by bit 7 of byte 0 (R73). -/
def FrameLen.ofByte0 (b : Byte) : FrameLen := if b.getLsbD 7 then .long else .short

/-! ### Bits of a message (R7, R160) -/

/-- Bit j0 of m, zero-based: message bit j0 + 1, which is bit 7 − (j0 mod 8) of byte ⌊j0/8⌋ (R7). -/
def msgBit (m : List Byte) (j0 : Nat) : Bool := (m.getD (j0 / 8) 0).getLsbD (7 - j0 % 8)

/-- `bits(a, b)` of m: the unsigned integer whose most significant bit is message bit a (R160). -/
def msgBits (m : List Byte) (a b : Nat) : Nat :=
  (List.range (b + 1 - a)).foldl (fun n k => 2 * n + (msgBit m (a + k - 1)).toNat) 0

/-- `bits(a, b)` as a field of w bits. -/
def msgField (w : Nat) (m : List Byte) (a b : Nat) : BitVec w := BitVec.ofNat w (msgBits m a b)

/-- Bit j0 of m flipped. -/
def flipBit (m : List Byte) (j0 : Nat) : List Byte :=
  m.set (j0 / 8) (m.getD (j0 / 8) 0 ^^^ (1#8 <<< (7 - j0 % 8)))

/-- `Flip(m, E)` (R149). -/
def flipBits (m : List Byte) (e : List Nat) : List Byte := e.foldl flipBit m

/-- DF, message bits 1–5 (R72). -/
def msgDf (m : List Byte) : BitVec 5 := msgField 5 m 1 5

/-! ### Downlink-format classes (R78) -/

/-- `Class(df)`. -/
def dfClass (df : BitVec 5) : DfClass :=
  if df ∈ [11#5, 17#5, 18#5, 19#5] then .pi
  else if df ∈ [0#5, 4#5, 5#5, 16#5, 20#5, 21#5] ∨ 24#5 ≤ df then .ap
  else .other

/-- The set of the quality-0 format filter (R83). -/
def selfIdentifying (df : BitVec 5) : Bool := df ∈ [11#5, 17#5, 18#5, 19#5]

/-! ### The numeric codes of the enumerations -/

/-- RUN_STATE as STATUS[1:0] shows it (R16). -/
def RunState.code : RunState → BitVec 2
  | .idle => 0
  | .running => 1
  | .stopping => 2
  | .halted => 3

/-- The code of `status` (R84). -/
def CrcStatus.code : CrcStatus → BitVec 3
  | .directOk => 0
  | .fixed1 => 1
  | .fixed2 => 2
  | .apRecovered => 3
  | .failed => 4

/-- The code of `cls` (R84). -/
def DfClass.code : DfClass → BitVec 2
  | .pi => 0
  | .ap => 1
  | .other => 2

/-- The code of `addr_kind` (R84). -/
def AddrKind.code : AddrKind → BitVec 2
  | .none => 0
  | .aa => 1
  | .apCandidate => 2
  | .apRecovered => 3

/-- The code of `alt_unit` (R84). -/
def AltUnit.code : AltUnit → BitVec 1
  | .feet => 0
  | .meters => 1

end Sys2Proof.Machine
end

