-- ==== Sys2Proof/Machine/Flags.lean ====
section
/-! DEFINITION. The flags of the block (R32): the STATUS fields computed when read, the FAULT bits as read, the busy bits, and the two
comparison flags of the demodulator. -/

namespace Sys2Proof.Machine

/-- FE_BUSY: 1 iff FE_PHASE ∉ {FE_IDLE, FE_HALTED} (R19). -/
def State.feBusy (s : State) : Bool := s.fePhase ≠ .idle && s.fePhase ≠ .halted

/-- DE_BUSY: 1 iff DE_PHASE ∉ {DE_IDLE, DE_HALTED} (R19). -/
def State.deBusy (s : State) : Bool := s.dePhase ≠ .idle && s.dePhase ≠ .halted

/-- STATUS (R19): reserved 31:28, OQ_COUNT 27:20, FQ_COUNT 19:12, IQ_COUNT 11:4, DE_BUSY 3, FE_BUSY 2, RUN_STATE 1:0. -/
def State.status (s : State) : W32 :=
  0#4 ++ BitVec.ofNat 8 s.oq.length ++ BitVec.ofNat 8 s.fq.length ++ BitVec.ofNat 8 s.iq.length
    ++ BitVec.ofBool s.deBusy ++ BitVec.ofBool s.feBusy ++ s.runState.code

/-- CFG as read: zext_32(CFG[19:0]) (R187). -/
def State.cfgRead (s : State) : W32 := (s.cfg.extractLsb' 0 20).setWidth 32

/-- FAULT as read: zext_32(FAULT[3:0]) (R187). -/
def State.faultRead (s : State) : W32 := (s.fault.extractLsb' 0 4).setWidth 32

/-- `bit`, the raw decision for the current pair: c > d, unsigned (R99). -/
def bitFlag (c d : W16) : Bool := d < c

/-- `bit_p`, the sign of the previous pair: a > b, unsigned (R99). -/
def prevBitFlag (a b : W16) : Bool := b < a

end Sys2Proof.Machine
end

