-- ==== Sys2Proof/Machine/Demod.lean ====
section
/-! DEFINITION. The Manchester demodulator DEMOD: the preamble test, the four tolerance policies, the error budget, and the step
FE_DEMOD (41_demodulator.md). -/

namespace Sys2Proof.Machine

/-! ### The preamble test (R95, R109) -/

/-- The high positions of the window. -/
def preambleHigh (p : Nat) : Bool := p = 0 || p = 2 || p = 7 || p = 9

/-- The loop of the test over the positions ps, with its two references. -/
def preambleFrom (w : List W16) (i : Nat) : List Nat → W16 → W16 → Bool
  | [], _, _ => true
  | p :: ps, high, low =>
    let x := w.getD (i + p) 0
    let high' := if preambleHigh p then x else high
    let low' := if preambleHigh p then low else x
    if high' ≤ low' then false else preambleFrom w i ps high' low'

/-- `Preamble(i)`: the weak pairwise test, normative as it stands (R109). -/
def preamble (w : List W16) (i : Nat) : Bool := preambleFrom w i (List.range 16) 0xFFFF 0

/-! ### The bit decision (R99–R103) -/

/-- The four tolerance policies (R99). -/
inductive Policy where
  | trust
  | sign
  | confirm
  | strict
deriving DecidableEq, Repr

/-- The policy that CFG.QUALITY selects (R99). -/
def policyOf (quality : Byte) : Policy :=
  if quality = 0 then .trust else if quality = 5 then .sign else if quality = 10 then .confirm else .strict

/-- What `single_manchester` returns (R99). -/
inductive Decision where
  | bit (b : Bool)
  | badSample
deriving DecidableEq, Repr

/-- TRUST (R100). -/
def decideTrust (c d : W16) : Decision := .bit (bitFlag c d)

/-- SIGN (R101). -/
def decideSign (a b c d : W16) : Decision :=
  if bitFlag c d = true ∧ prevBitFlag a b = true ∧ c < b then .badSample
  else if bitFlag c d = false ∧ prevBitFlag a b = false ∧ b < c then .badSample
  else .bit (bitFlag c d)

/-- CONFIRM (R102). -/
def decideConfirm (a b c d : W16) : Decision :=
  if bitFlag c d = true ∧ prevBitFlag a b = true ∧ b < c then .bit true
  else if bitFlag c d = true ∧ prevBitFlag a b = false ∧ d < b then .bit true
  else if bitFlag c d = false ∧ prevBitFlag a b = true ∧ b < d then .bit false
  else if bitFlag c d = false ∧ prevBitFlag a b = false ∧ c < b then .bit false
  else .badSample

/-- STRICT (R103). -/
def decideStrict (a b c d : W16) : Decision :=
  if bitFlag c d = true ∧ prevBitFlag a b = true ∧ b < c ∧ d < a then .bit true
  else if bitFlag c d = true ∧ prevBitFlag a b = false ∧ a < c ∧ d < b then .bit true
  else if bitFlag c d = false ∧ prevBitFlag a b = true ∧ c < a ∧ b < d then .bit false
  else if bitFlag c d = false ∧ prevBitFlag a b = false ∧ c < b ∧ a < d then .bit false
  else .badSample

/-- `single_manchester(quality, a, b, c, d)` (R99). -/
def singleManchester (quality : Byte) (a b c d : W16) : Decision :=
  match policyOf quality with
  | .trust => decideTrust c d
  | .sign => decideSign a b c d
  | .confirm => decideConfirm a b c d
  | .strict => decideStrict a b c d

/-! ### One DEMOD pass (R94) -/

/-- The `mode` of a pass (R27). -/
inductive DemodMode where
  | search
  | decode
deriving DecidableEq, Repr

/-- The pass-local registers (R27). None survives a pass, so they are no part of State (A16). -/
structure DemodRegs where
  i : Nat
  i2 : Nat
  start : Nat
  errors : Nat
  a : W16
  b : W16
  mode : DemodMode
deriving DecidableEq, Repr

/-- The registers at the start of a pass: i, a, b and mode as R27 and R108 set them. R27 leaves i2, start and errors open here ("set at each
run start"); DESIGN CHOICE (A29): they are 0, and `beginRun` writes them before any rule reads them. -/
def DemodRegs.init : DemodRegs :=
  { i := 0, i2 := 0, start := 0, errors := 0, a := 0, b := 0, mode := .search }

/-- A run starts at i (R98). -/
def DemodRegs.beginRun (r : DemodRegs) : DemodRegs :=
  { r with start := r.i, i2 := r.i, errors := 0, mode := .decode }

/-- What one move of the pass's state machine gives: it goes on, or the pass ends with the words left. -/
inductive DemodMove where
  | more (r : DemodRegs) (w : List W16)
  | done (w : List W16)
deriving DecidableEq, Repr

/-- The 16 window words at i become MESSAGEGO (R97). -/
def markWindow (p : Params) (w : List W16) (i : Nat) : List W16 :=
  (List.range 16).foldl (fun w k => w.set (i + k) p.markGo) w

/-- `Seed(i)` (R97). A word past the end of the block reads as 0: "Otherwise b <- 0". -/
def seed (p : Params) (w : List W16) (i : Nat) : W16 × W16 :=
  (w.getD (i + p.seedOffset) 0, w.getD (i + p.seedOffset + 1) 0)

/-- SEARCH_PREAMBLE at position i (R96, R97): a match starts a run, a position past N − 17 ends the search. The pass ends where i ≥ N − 1, and
where the search fails with TAIL_DECODE = 0. -/
def demodSearch (p : Params) (r : DemodRegs) (w : List W16) : DemodMove :=
  if r.i + 1 < w.length then
    if r.i + 17 ≤ w.length then
      if preamble w r.i then
        .more ({ r with a := (seed p w r.i).1, b := (seed p w r.i).2, i := r.i + 16 }.beginRun) (markWindow p w r.i)
      else .more { r with i := r.i + 1 } w
    else if p.tailDecode then .more r.beginRun w
    else .done w
  else .done w

/-- A pair with its result x: OVERWRITE on both samples, then the bit at the output position (R94, R107). -/
def demodAccept (p : Params) (r : DemodRegs) (w : List W16) (x : Bool) : DemodMove :=
  .more { r with i := r.i + 2, i2 := r.i2 + 1 }
    (((w.set r.i p.markOver).set (r.i + 1) p.markOver).set r.i2 (if x then 1 else 0))

/-- DECODING of the pair at i (R98, R104–R107). A run ends where no whole pair is left. -/
def demodPair (p : Params) (quality : Byte) (allowed : Nat) (r : DemodRegs) (w : List W16) : DemodMove :=
  if r.i + 1 < w.length then
    let c := w.getD r.i 0
    let d := w.getD (r.i + 1) 0
    match singleManchester quality r.a r.b c d with
    | .bit x => demodAccept p { r with a := c, b := d } w x
    | .badSample =>
      if allowed < r.errors + 1 then
        .more { r with a := c, b := d, errors := r.errors + 1, mode := .search } (w.set r.i2 p.markBad)
      else demodAccept p { r with a := 0, b := 0xFFFF, errors := r.errors + 1 } w (bitFlag c d)
  else .more { r with mode := .search } w

/-- One move of `SEARCH_PREAMBLE → DECODING → (SEARCH_PREAMBLE | end)` (R94). -/
def demodMove (p : Params) (quality : Byte) (allowed : Nat) (r : DemodRegs) (w : List W16) : DemodMove :=
  match r.mode with
  | .search => demodSearch p r w
  | .decode => demodPair p quality allowed r w

/-- The pass within `fuel` moves; none where it has not ended by then. -/
def demodRun (p : Params) (quality : Byte) (allowed : Nat) : Nat → DemodRegs → List W16 → Option (List W16)
  | 0, _, _ => none
  | fuel + 1, r, w =>
    match demodMove p quality allowed r w with
    | .done w' => some w'
    | .more r' w' => demodRun p quality allowed fuel r' w'

/-- More moves than a pass over n words that ends can take: every move but a run's start and end advances i, a match advances it by 16, and
with TAIL_DECODE = 1 at most 16 positions lie in the tail, each tried at most three times before a try repeats itself exactly (R108). -/
def demodFuel (n : Nat) : Nat := 2 * n + 128

/-- One DEMOD pass over the words of a block (R94); none where the pass never returns (R108, R229). -/
def demodPass (p : Params) (quality : Byte) (allowed : Nat) (w : List W16) : Option (List W16) :=
  demodRun p quality allowed (demodFuel w.length) DemodRegs.init w

/-- FE_DEMOD's effect (R94). Where the pass never returns FE stays in FE_DEMOD and nothing is written: FE takes no step after it (R108,
R229; A7). -/
def feDemod (s : State) : State :=
  match demodPass s.params (cfgQuality s.cfg) (cfgAllowedErrors s.cfg) s.words with
  | some w => { s.setWords w with fePhase := .frame }
  | none => s

/-- FE_DEMOD, label 0x12 (R94). -/
def execFeDemod (s : State) : Host.Outcome State Fault Refusal :=
  whenEnabled (s.fePhase = .demod) feDemod s

end Sys2Proof.Machine
end

