-- ==== Sys2Proof/Machine/Cache.lean ====
section
/-! DEFINITION. The ICAO address cache: the hash, CacheRecord and CacheSeen (45_icao_cache.md). -/

namespace Sys2Proof.Machine

/-- The default ICAO_HASH, modulo 2^32 (R155). -/
def icaoHashDefault (a : W24) : W32 :=
  let h := a.setWidth 32
  let h := ((h >>> 16) ^^^ h) * 0x045D9F3B
  let h := ((h >>> 16) ^^^ h) * 0x045D9F3B
  (h >>> 16) ^^^ h

/-- ICAO_HASH, a parameter (R6, R155; A6). -/
def icaoHash (p : Params) (a : W24) : W32 := (p.hash.lookup a).getD (icaoHashDefault a)

/-- slot(a) (R154). -/
def cacheSlot (p : Params) (a : W24) : Nat := (icaoHash p a).toNat % p.cacheLen

/-- cache[k] (R31). -/
def cacheRead (c : List (Nat × CacheSlot)) (k : Nat) : CacheSlot := sparseRead CacheSlot.empty c k

/-- `CacheRecord(a, t)` (R156). -/
def cacheRecord (p : Params) (c : List (Nat × CacheSlot)) (a : W24) (t : W32) : List (Nat × CacheSlot) :=
  sparseWrite CacheSlot.empty c (cacheSlot p a) { valid := true, addr := a, ts := t }

/-- `CacheSeen(a, t)` (R157): the age is the unsigned 32-bit difference, the bound is inclusive. -/
def cacheSeen (p : Params) (c : List (Nat × CacheSlot)) (a : W24) (t : W32) : Bool :=
  let e := cacheRead c (cacheSlot p a)
  e.valid && (e.addr == a && decide ((t - e.ts).toNat ≤ p.ttl))

end Sys2Proof.Machine
end

