-- ==== Sys2Proof/Machine/Crc.lean ====
section
/-! DEFINITION. The Mode S checksum: the generator, the weights T_n(j0), CRC, the syndrome, and the searches for one and two flipped bits
(44_crc_correction.md). -/

namespace Sys2Proof.Machine

/-- One turn of the T(e) procedure (R139) on a 24-bit remainder: shift, and reduce by G = 0x1FFF409 where bit 24 comes out. -/
def crcNext (r : W24) : W24 := if r.getLsbD 23 then (r <<< 1) ^^^ 0xFFF409 else r <<< 1

/-- T(e), the remainder of x^e modulo G (R139). -/
def crcT : Nat → W24
  | 0 => 1
  | e + 1 => crcNext (crcT e)

/-- The next k powers from r on, highest first, before acc. -/
def crcPowers : Nat → W24 → List W24 → List W24
  | 0, _, acc => acc
  | k + 1, r, acc => crcPowers k (crcNext r) (r :: acc)

/-- The weights T_n(0), …, T_n(n−1) of a frame of n bits, where T_n(j0) = T(n − 1 − j0) (R139). -/
def crcWeights (n : Nat) : List W24 := crcPowers n 1 []

/-- The exclusive or of the weights whose bit of m, from bit j0 on, is 1. -/
def crcSum (m : List Byte) : List W24 → Nat → W24
  | [], _ => 0
  | t :: ts, j0 => (if msgBit m j0 then t else 0) ^^^ crcSum m ts (j0 + 1)

/-- CRC(m) of a frame of n bits: over its data bits 0..n−25 (R140). -/
def crc (n : Nat) (m : List Byte) : W24 := crcSum m ((crcWeights n).take (n - 24)) 0

/-- P(m): the last three bytes (R81). -/
def parity (n : Nat) (m : List Byte) : W24 := m.getD (n / 8 - 3) 0 ++ m.getD (n / 8 - 2) 0 ++ m.getD (n / 8 - 1) 0

/-- Syndrome(m) (R140). -/
def syndrome (n : Nat) (m : List Byte) : W24 := crc n m ^^^ parity n m

/-- The first position from j0 on whose weight is x. -/
def findWeight (x : W24) : List W24 → Nat → Option Nat
  | [], _ => none
  | t :: ts, j0 => if t = x then some j0 else findWeight x ts (j0 + 1)

/-- `FixOne(n, S)` (R143). -/
def fixOne (n : Nat) (x : W24) : Option Nat := findWeight x (crcWeights n) 0

/-- The first pair in lexicographic order, from j0 on, whose weights add up to x. -/
def findPair (x : W24) : List W24 → Nat → Option (Nat × Nat)
  | [], _ => none
  | t :: ts, j0 =>
    match findWeight (t ^^^ x) ts (j0 + 1) with
    | some j1 => some (j0, j1)
    | none => findPair x ts (j0 + 1)

/-- `FixTwo(n, S)` (R144). -/
def fixTwo (n : Nat) (x : W24) : Option (Nat × Nat) := findPair x (crcWeights n) 0

end Sys2Proof.Machine
end

