-- ==== Sys2Proof/Machine/Fields.lean ====
section
/-! DEFINITION. The message field decoder: one function per field rule of 46_field_decoder.md, each on the record being built, and
DecodeFields' dispatch. Field positions are those of R75–R80. -/

namespace Sys2Proof.Machine

/-! ### Arithmetic -/

/-- The integer root of v below 2^k + r, by its bits from bit k − 1 down. -/
def isqrtFrom (v : Nat) : Nat → Nat → Nat
  | 0, r => r
  | k + 1, r => if (r + 2 ^ k) ^ 2 ≤ v then isqrtFrom v k (r + 2 ^ k) else isqrtFrom v k r

/-- isqrt(v) for v < 2^22, which ew² + ns² is: the largest s with s² ≤ v (R181). -/
def isqrt (v : Nat) : Nat := isqrtFrom v 11 0

/-- `Speed(ew, ns)` (R181). -/
def speedOf (ew ns : BitVec 10) : Nat := isqrt (ew.toNat ^ 2 + ns.toNat ^ 2)

/-- A signed component (R177). -/
def signedComponent (dir : BitVec 1) (mag : BitVec 10) : Int := if dir = 1 then -(mag.toNat : Int) else (mag.toNat : Int)

/-- `TRACK_FN` (R183): its named properties where they apply, and elsewhere a free value in 0..359 (A5). -/
def trackFn (e n : Int) : Nat :=
  if n = 0 ∧ 0 < e then 90
  else if n = 0 ∧ e < 0 then 270
  else if e = 0 ∧ 0 < n then 0
  else if e = 0 ∧ n < 0 then 180
  else if e = -9 ∧ n = -160 then 184
  else (Config.trackFree e n).val

/-- `Track` (R182). -/
def trackOf (ewDir : BitVec 1) (ew : BitVec 10) (nsDir : BitVec 1) (ns : BitVec 10) : Nat :=
  if speedOf ew ns = 0 then 0 else trackFn (signedComponent ewDir ew) (signedComponent nsDir ns)

/-- The 25-ft altitude of an 11-bit code (R163, R170): 25 · N11 − 1000. -/
def altitude25 (n11 : Nat) : Int := 25 * (n11 : Int) - 1000

/-- The character of a 6-bit code (R77). -/
def charsetChar (c : BitVec 6) : Char :=
  if 1 ≤ c.toNat ∧ c.toNat ≤ 26 then Char.ofNat (64 + c.toNat)
  else if c.toNat = 32 then ' '
  else if 48 ≤ c.toNat ∧ c.toNat ≤ 57 then Char.ofNat c.toNat
  else '?'

/-! ### The record -/

/-- The record with every field 0, NONE or FEET (R159). The flight string's 0 is eight NUL characters (A15). -/
def DecodedMessage.blank : DecodedMessage where
  df := 0
  nBits := .short
  status := .directOk
  cls := .pi
  syndrome := 0
  errCount := 0
  errBit0 := none
  errBit1 := none
  addr := 0
  addrKind := .none
  msg := List.replicate 14 0
  f3 := 0
  drValid := false
  dr := 0
  um := 0
  altValid := false
  alt := 0
  altUnit := .feet
  idValid := false
  idA := 0
  idB := 0
  idC := 0
  idD := 0
  squawk := 0
  tcValid := false
  tc := 0
  st := 0
  flightValid := false
  flight := List.replicate 8 (Char.ofNat 0)
  posValid := false
  cprT := 0
  cprF := 0
  cprLat := 0
  cprLon := 0
  velValid := false
  ewDir := 0
  ew := 0
  nsDir := 0
  ns := 0
  vrSrc := 0
  vrSign := 0
  vr := 0
  speed := 0
  track := 0
  unitPref := 0

/-- What the checksum half of a decode hands on (R138): the corrected message m, its length, status, class, syndrome as received, the flipped
positions E, the address and its kind, and the cache. -/
structure Verdict where
  m : List Byte
  len : FrameLen
  status : CrcStatus
  cls : DfClass
  syn : W24
  flips : List Nat
  addr : W24
  addrKind : AddrKind
  cache : List (Nat × CacheSlot)
deriving DecidableEq, Repr

/-- The common part of a record (R159, R185). -/
def commonFields (cfg : W32) (v : Verdict) : DecodedMessage :=
  { DecodedMessage.blank with
    df := msgDf v.m, nBits := v.len, status := v.status, cls := v.cls, syndrome := v.syn,
    errCount := v.flips.length, errBit0 := v.flips[0]?, errBit1 := v.flips[1]?,
    addr := v.addr, addrKind := v.addrKind,
    msg := v.m ++ List.replicate (14 - v.m.length) 0,
    f3 := msgField 3 v.m 6 8, unitPref := cfgMetric cfg }

/-- AC13 altitude (R163). -/
def altitude13 (m : List Byte) (r : DecodedMessage) : DecodedMessage :=
  let r := { r with altUnit := if msgBits m 26 26 = 1 then .meters else .feet }
  if msgBits m 26 26 = 0 ∧ msgBits m 28 28 = 1 then
    { r with alt := altitude25 (msgBits m 20 25 * 32 + msgBits m 27 27 * 16 + msgBits m 29 32), altValid := true }
  else { r with alt := 0, altValid := false }

/-- A digit of ID13 from its bits of weight 4, 2 and 1 (R165). -/
def octalDigit (m : List Byte) (j4 j2 j1 : Nat) : BitVec 3 :=
  BitVec.ofNat 3 (4 * msgBits m j4 j4 + 2 * msgBits m j2 j2 + msgBits m j1 j1)

/-- ID13 identity (R165). -/
def identity13 (m : List Byte) (r : DecodedMessage) : DecodedMessage :=
  let a := octalDigit m 25 23 21
  let b := octalDigit m 31 29 27
  let c := octalDigit m 24 22 20
  let d := octalDigit m 32 30 28
  { r with
    idA := a, idB := b, idC := c, idD := d,
    squawk := 1000 * a.toNat + 100 * b.toNat + 10 * c.toNat + d.toNat, idValid := true }

/-- DR and UM (R167). -/
def drUm (m : List Byte) (r : DecodedMessage) : DecodedMessage :=
  { r with dr := msgField 5 m 9 13, um := msgField 6 m 14 19, drValid := true }

/-- The ME header (R168). -/
def meHeader (m : List Byte) (r : DecodedMessage) : DecodedMessage :=
  { r with tc := msgField 5 m 33 37, st := msgField 3 m 38 40, tcValid := true }

/-- Identification, TC 1–4 (R169). -/
def identification (m : List Byte) (r : DecodedMessage) : DecodedMessage :=
  { r with
    flight := (List.range 8).map (fun q => charsetChar (msgField 6 m (41 + 6 * q) (46 + 6 * q))), flightValid := true }

/-- AC12 altitude (R170). -/
def altitude12 (m : List Byte) (r : DecodedMessage) : DecodedMessage :=
  let r := { r with altUnit := .feet }
  if msgBits m 48 48 = 1 then
    { r with alt := altitude25 (msgBits m 41 47 * 16 + msgBits m 49 52), altValid := true }
  else { r with alt := 0, altValid := false }

/-- Airborne position, TC 9–18 (R171): raw CPR, resolved nowhere in this block (R172). -/
def airbornePosition (m : List Byte) (r : DecodedMessage) : DecodedMessage :=
  { altitude12 m r with
    cprT := msgField 1 m 53 53, cprF := msgField 1 m 54 54, cprLat := msgField 17 m 55 71, cprLon := msgField 17 m 72 88,
    posValid := true }

/-- Velocity, TC 19 with ST 1 or 2 (R174–R182): the raw values as encoded (R179). -/
def velocity (m : List Byte) (r : DecodedMessage) : DecodedMessage :=
  let ewDir : BitVec 1 := msgField 1 m 46 46
  let ew : BitVec 10 := msgField 10 m 47 56
  let nsDir : BitVec 1 := msgField 1 m 57 57
  let ns : BitVec 10 := msgField 10 m 58 67
  { r with
    ewDir := ewDir, ew := ew, nsDir := nsDir, ns := ns,
    vrSrc := msgField 1 m 68 68, vrSign := msgField 1 m 69 69, vr := msgField 9 m 70 78,
    speed := speedOf ew ns, track := trackOf ewDir ew nsDir ns, velValid := true }

/-! ### Dispatch -/

/-- The field rule of an ME by its type code and subtype (R168). -/
def meFields (m : List Byte) (r : DecodedMessage) : DecodedMessage :=
  let tc := msgBits m 33 37
  let st := msgBits m 38 40
  if 1 ≤ tc ∧ tc ≤ 4 then identification m r
  else if 9 ≤ tc ∧ tc ≤ 18 then airbornePosition m r
  else if tc = 19 ∧ (st = 1 ∨ st = 2) then velocity m r
  else r

/-- The field rules by `df`, the corrected value (R161). -/
def formatFields (m : List Byte) (r : DecodedMessage) : DecodedMessage :=
  let df := msgBits m 1 5
  if df = 0 ∨ df = 16 then altitude13 m r
  else if df = 4 ∨ df = 20 then drUm m (altitude13 m r)
  else if df = 5 ∨ df = 21 then drUm m (identity13 m r)
  else if df = 17 then meFields m (meHeader m r)
  else r

/-- `DecodeFields` (R159–R185). -/
def decodeFields (cfg : W32) (v : Verdict) : DecodedMessage := formatFields v.m (commonFields cfg v)

end Sys2Proof.Machine
end

