-- ==== Sys2Proof/Machine/DecodeEngine.lean ====
section
/-! DEFINITION. The step DE_DECODE (44_crc_correction.md R138): validation by class, counting, routing, and what the rows of the opcode
table that name a downlink format or an ME type share with it. -/

namespace Sys2Proof.Machine

/-- The frame DE is to decode: F, where DE_PHASE = DE_DECODE (R138). -/
def State.frameInHand (s : State) : Option RawFrame := if s.dePhase = .decode then s.frame else none

/-! ### Validation by class (R141–R146) -/

/-- The status of a PI frame with syndrome x, and the positions to flip (R142–R144). -/
def correctPi (cfg : W32) (n : Nat) (x : W24) : CrcStatus × List Nat :=
  if x = 0 then (.directOk, [])
  else if cfgFix1 cfg then
    match fixOne n x with
    | some j0 => (.fixed1, [j0])
    | none =>
      if cfgFix2 cfg then
        match fixTwo n x with
        | some (j0, j1) => (.fixed2, [j0, j1])
        | none => (.failed, [])
      else (.failed, [])
  else (.failed, [])

/-- A PI frame (R142–R144): AA of the corrected message, recorded in the cache where the status is DIRECT_OK (R156). -/
def validatePi (s : State) (f : RawFrame) (t : W32) : Verdict :=
  let x := syndrome f.len.bits f.bytes
  let (status, e) := correctPi s.cfg f.len.bits x
  let m := flipBits f.bytes e
  let addr : W24 := msgField 24 m 9 32
  { m := m, len := f.len, status := status, cls := .pi, syn := x, flips := e, addr := addr, addrKind := .aa,
    cache := if status = .directOk then cacheRecord s.params s.cache addr t else s.cache }

/-- An AP frame (R145): the syndrome is the candidate address, accepted where the cache has seen it. -/
def validateAp (s : State) (f : RawFrame) (t : W32) : Verdict :=
  let x := syndrome f.len.bits f.bytes
  let seen := cacheSeen s.params s.cache x t
  { m := f.bytes, len := f.len, status := if seen then .apRecovered else .failed, cls := .ap, syn := x, flips := [],
    addr := x, addrKind := if seen then .apRecovered else .apCandidate, cache := s.cache }

/-- A frame of a format with no assignment (R146). -/
def validateOther (s : State) (f : RawFrame) (_ : W32) : Verdict :=
  let x := syndrome f.len.bits f.bytes
  { m := f.bytes, len := f.len, status := if x = 0 then .directOk else .failed, cls := .other, syn := x, flips := [],
    addr := 0, addrKind := .none, cache := s.cache }

/-- Validation by the class of the DF as received (R141). -/
def validate (s : State) (f : RawFrame) (t : W32) : Verdict :=
  match dfClass (msgDf f.bytes) with
  | .pi => validatePi s f t
  | .ap => validateAp s f t
  | .other => validateOther s f t

/-! ### Counting and routing (R147–R150) -/

/-- `Count(status)`'s counter (R147). -/
def statusCounter : CrcStatus → Counter
  | .directOk => .msgDirect
  | .fixed1 => .msgFixed
  | .fixed2 => .msgFixed
  | .apRecovered => .msgAp
  | .failed => .msgFail

/-- The message is emitted, not dropped (R148, R150). -/
def Verdict.emitted (v : Verdict) (cfg : W32) : Bool := !(v.status = .failed && cfgCrcCheck cfg)

/-- The end of DE_DECODE with the verdict v and, where the message is emitted, the record m (R147–R150). F is released either way
(A13). -/
def finishDecode (s : State) (v : Verdict) (m : DecodedMessage) : State :=
  if v.emitted s.cfg then
    { s.count (statusCounter v.status) 1 with cache := v.cache, frame := none, msg := some m, dePhase := .emit }
  else
    { s.count (statusCounter v.status) 1 with cache := v.cache, frame := none, msg := none, dePhase := .idle }

/-- DE_DECODE of the frame f under a validation and field rules, `now` sampled once at its start (R138, R30). -/
def decodeWith (validation : State → RawFrame → W32 → Verdict) (f : RawFrame) (s : State) : State :=
  let v := validation s f s.now
  finishDecode s.afterNow v (decodeFields s.cfg v)

/-- DE_DECODE, label 0x21 (R138). -/
def execDeDecode (s : State) : Host.Outcome State Fault Refusal :=
  match s.frameInHand with
  | some f => .next (decodeWith validate f s)
  | none => .next s

/-! ### What the rows of the table share (A9) -/

/-- The row of DF df with third field f3: DE_DECODE of a frame in hand whose byte 0 holds them, under the validation of the row's class. With no
such frame in hand it holds. -/
def runFormat (df : BitVec 5) (f3 : BitVec 3) (validation : State → RawFrame → W32 → Verdict) (s : State) :
    Host.Outcome State Fault Refusal :=
  match s.frameInHand with
  | some f => .next (if f.bytes.getD 0 0 = (df ++ f3 : BitVec 8) then decodeWith validation f s else s)
  | none => .next s

/-- The verdict on the frame in hand emits a DF17 message whose byte 4 is b: the corrected message's ME field is decoded (R161, R168). -/
def Verdict.decodesMe (v : Verdict) (cfg : W32) (b : Byte) : Bool :=
  v.emitted cfg && (msgDf v.m == 17#5 && v.m.getD 4 0 == b)

/-- The row of an ME type: DE_DECODE of a frame in hand that ends in the decoding of an ME field with type tc and subtype st, under the row's
field rule. With no such frame in hand it holds. -/
def runMe (tc : BitVec 5) (st : BitVec 3) (fields : List Byte → DecodedMessage → DecodedMessage) (s : State) :
    Host.Outcome State Fault Refusal :=
  match s.frameInHand with
  | some f =>
    let v := validate s f s.now
    .next (if v.decodesMe s.cfg (tc ++ st : BitVec 8) then
      finishDecode s.afterNow v (fields v.m (meHeader v.m (commonFields s.cfg v))) else s)
  | none => .next s

end Sys2Proof.Machine
end

