-- ==== Sys2Proof/Machine/ExtSquitter.lean ====
section
/-! DEFINITION. The rows of the opcode table that name an ME type of DF17 (R76): DE_DECODE of a frame that ends in the decoding of such an ME
field, under the field rule the row states (A9). -/

namespace Sys2Proof.Machine

/-- TC and ST only (R76, R82, R178). -/
def headerOnly (_ : List Byte) (r : DecodedMessage) : DecodedMessage := r

/-- ME TC0: no subfields decoded (R168). -/
def execMeTc0 (st : BitVec 3) (s : State) : Host.Outcome State Fault Refusal := runMe 0 st headerOnly s

/-- ME TC1: aircraft identification, 8 characters in bits 41-88 (R169). -/
def execMeTc1 (st : BitVec 3) (s : State) : Host.Outcome State Fault Refusal := runMe 1 st identification s

/-- ME TC2: aircraft identification, 8 characters in bits 41-88 (R169). -/
def execMeTc2 (st : BitVec 3) (s : State) : Host.Outcome State Fault Refusal := runMe 2 st identification s

/-- ME TC3: aircraft identification, 8 characters in bits 41-88 (R169). -/
def execMeTc3 (st : BitVec 3) (s : State) : Host.Outcome State Fault Refusal := runMe 3 st identification s

/-- ME TC4: aircraft identification, 8 characters in bits 41-88 (R169). -/
def execMeTc4 (st : BitVec 3) (s : State) : Host.Outcome State Fault Refusal := runMe 4 st identification s

/-- ME TC5: surface position: no subfields decoded (D34) (R168). -/
def execMeTc5 (st : BitVec 3) (s : State) : Host.Outcome State Fault Refusal := runMe 5 st headerOnly s

/-- ME TC6: surface position: no subfields decoded (D34) (R168). -/
def execMeTc6 (st : BitVec 3) (s : State) : Host.Outcome State Fault Refusal := runMe 6 st headerOnly s

/-- ME TC7: surface position: no subfields decoded (D34) (R168). -/
def execMeTc7 (st : BitVec 3) (s : State) : Host.Outcome State Fault Refusal := runMe 7 st headerOnly s

/-- ME TC8: surface position: no subfields decoded (D34) (R168). -/
def execMeTc8 (st : BitVec 3) (s : State) : Host.Outcome State Fault Refusal := runMe 8 st headerOnly s

/-- ME TC9: airborne position: AC12 (R170), T, F, raw CPR lat/lon (R171). -/
def execMeTc9 (st : BitVec 3) (s : State) : Host.Outcome State Fault Refusal := runMe 9 st airbornePosition s

/-- ME TC10: airborne position: AC12 (R170), T, F, raw CPR lat/lon (R171). -/
def execMeTc10 (st : BitVec 3) (s : State) : Host.Outcome State Fault Refusal := runMe 10 st airbornePosition s

/-- ME TC11: airborne position: AC12 (R170), T, F, raw CPR lat/lon (R171). -/
def execMeTc11 (st : BitVec 3) (s : State) : Host.Outcome State Fault Refusal := runMe 11 st airbornePosition s

/-- ME TC12: airborne position: AC12 (R170), T, F, raw CPR lat/lon (R171). -/
def execMeTc12 (st : BitVec 3) (s : State) : Host.Outcome State Fault Refusal := runMe 12 st airbornePosition s

/-- ME TC13: airborne position: AC12 (R170), T, F, raw CPR lat/lon (R171). -/
def execMeTc13 (st : BitVec 3) (s : State) : Host.Outcome State Fault Refusal := runMe 13 st airbornePosition s

/-- ME TC14: airborne position: AC12 (R170), T, F, raw CPR lat/lon (R171). -/
def execMeTc14 (st : BitVec 3) (s : State) : Host.Outcome State Fault Refusal := runMe 14 st airbornePosition s

/-- ME TC15: airborne position: AC12 (R170), T, F, raw CPR lat/lon (R171). -/
def execMeTc15 (st : BitVec 3) (s : State) : Host.Outcome State Fault Refusal := runMe 15 st airbornePosition s

/-- ME TC16: airborne position: AC12 (R170), T, F, raw CPR lat/lon (R171). -/
def execMeTc16 (st : BitVec 3) (s : State) : Host.Outcome State Fault Refusal := runMe 16 st airbornePosition s

/-- ME TC17: airborne position: AC12 (R170), T, F, raw CPR lat/lon (R171). -/
def execMeTc17 (st : BitVec 3) (s : State) : Host.Outcome State Fault Refusal := runMe 17 st airbornePosition s

/-- ME TC18: airborne position: AC12 (R170), T, F, raw CPR lat/lon (R171). -/
def execMeTc18 (st : BitVec 3) (s : State) : Host.Outcome State Fault Refusal := runMe 18 st airbornePosition s

/-- ME TC19 ST0: airborne velocity, other subtype: TC and ST only (R178). -/
def execMeTc19St0 (s : State) : Host.Outcome State Fault Refusal := runMe 19 0 headerOnly s

/-- ME TC19 ST1: airborne velocity over ground (R174). -/
def execMeTc19St1 (s : State) : Host.Outcome State Fault Refusal := runMe 19 1 velocity s

/-- ME TC19 ST2: airborne velocity over ground (R174). -/
def execMeTc19St2 (s : State) : Host.Outcome State Fault Refusal := runMe 19 2 velocity s

/-- ME TC19 ST3: airborne velocity, other subtype: TC and ST only (R178). -/
def execMeTc19St3 (s : State) : Host.Outcome State Fault Refusal := runMe 19 3 headerOnly s

/-- ME TC19 ST4: airborne velocity, other subtype: TC and ST only (R178). -/
def execMeTc19St4 (s : State) : Host.Outcome State Fault Refusal := runMe 19 4 headerOnly s

/-- ME TC19 ST5: airborne velocity, other subtype: TC and ST only (R178). -/
def execMeTc19St5 (s : State) : Host.Outcome State Fault Refusal := runMe 19 5 headerOnly s

/-- ME TC19 ST6: airborne velocity, other subtype: TC and ST only (R178). -/
def execMeTc19St6 (s : State) : Host.Outcome State Fault Refusal := runMe 19 6 headerOnly s

/-- ME TC19 ST7: airborne velocity, other subtype: TC and ST only (R178). -/
def execMeTc19St7 (s : State) : Host.Outcome State Fault Refusal := runMe 19 7 headerOnly s

/-- ME TC20: no subfields decoded (D34) (R168). -/
def execMeTc20 (st : BitVec 3) (s : State) : Host.Outcome State Fault Refusal := runMe 20 st headerOnly s

/-- ME TC21: no subfields decoded (D34) (R168). -/
def execMeTc21 (st : BitVec 3) (s : State) : Host.Outcome State Fault Refusal := runMe 21 st headerOnly s

/-- ME TC22: no subfields decoded (D34) (R168). -/
def execMeTc22 (st : BitVec 3) (s : State) : Host.Outcome State Fault Refusal := runMe 22 st headerOnly s

/-- ME TC23: no subfields decoded (D34) (R168). -/
def execMeTc23 (st : BitVec 3) (s : State) : Host.Outcome State Fault Refusal := runMe 23 st headerOnly s

/-- ME TC24: no subfields decoded (D34) (R168). -/
def execMeTc24 (st : BitVec 3) (s : State) : Host.Outcome State Fault Refusal := runMe 24 st headerOnly s

/-- ME TC25: no subfields decoded (D34) (R168). -/
def execMeTc25 (st : BitVec 3) (s : State) : Host.Outcome State Fault Refusal := runMe 25 st headerOnly s

/-- ME TC26: no subfields decoded (D34) (R168). -/
def execMeTc26 (st : BitVec 3) (s : State) : Host.Outcome State Fault Refusal := runMe 26 st headerOnly s

/-- ME TC27: no subfields decoded (D34) (R168). -/
def execMeTc27 (st : BitVec 3) (s : State) : Host.Outcome State Fault Refusal := runMe 27 st headerOnly s

/-- ME TC28: no subfields decoded (D34) (R168). -/
def execMeTc28 (st : BitVec 3) (s : State) : Host.Outcome State Fault Refusal := runMe 28 st headerOnly s

/-- ME TC29: no subfields decoded (D34) (R168). -/
def execMeTc29 (st : BitVec 3) (s : State) : Host.Outcome State Fault Refusal := runMe 29 st headerOnly s

/-- ME TC30: no subfields decoded (D34) (R168). -/
def execMeTc30 (st : BitVec 3) (s : State) : Host.Outcome State Fault Refusal := runMe 30 st headerOnly s

/-- ME TC31: no subfields decoded (D34) (R168). -/
def execMeTc31 (st : BitVec 3) (s : State) : Host.Outcome State Fault Refusal := runMe 31 st headerOnly s

end Sys2Proof.Machine
end

