-- ==== Sys2Proof/Machine/Formats.lean ====
section
/-! DEFINITION. The rows of the opcode table that name a downlink format (R74): DE_DECODE of a frame of that format, under the validation of
the class the row states (A9). -/

namespace Sys2Proof.Machine

/-- DF 0, short air-air surveillance: class AP (R145). -/
def execDf0 (f3 : BitVec 3) (s : State) : Host.Outcome State Fault Refusal := runFormat 0 f3 validateAp s

/-- DF 1, not assigned: class OTHER (R146). -/
def execDf1 (f3 : BitVec 3) (s : State) : Host.Outcome State Fault Refusal := runFormat 1 f3 validateOther s

/-- DF 2, not assigned: class OTHER (R146). -/
def execDf2 (f3 : BitVec 3) (s : State) : Host.Outcome State Fault Refusal := runFormat 2 f3 validateOther s

/-- DF 3, not assigned: class OTHER (R146). -/
def execDf3 (f3 : BitVec 3) (s : State) : Host.Outcome State Fault Refusal := runFormat 3 f3 validateOther s

/-- DF 4, surveillance altitude reply: class AP (R145). -/
def execDf4 (f3 : BitVec 3) (s : State) : Host.Outcome State Fault Refusal := runFormat 4 f3 validateAp s

/-- DF 5, surveillance identity reply: class AP (R145). -/
def execDf5 (f3 : BitVec 3) (s : State) : Host.Outcome State Fault Refusal := runFormat 5 f3 validateAp s

/-- DF 6, not assigned: class OTHER (R146). -/
def execDf6 (f3 : BitVec 3) (s : State) : Host.Outcome State Fault Refusal := runFormat 6 f3 validateOther s

/-- DF 7, not assigned: class OTHER (R146). -/
def execDf7 (f3 : BitVec 3) (s : State) : Host.Outcome State Fault Refusal := runFormat 7 f3 validateOther s

/-- DF 8, not assigned: class OTHER (R146). -/
def execDf8 (f3 : BitVec 3) (s : State) : Host.Outcome State Fault Refusal := runFormat 8 f3 validateOther s

/-- DF 9, not assigned: class OTHER (R146). -/
def execDf9 (f3 : BitVec 3) (s : State) : Host.Outcome State Fault Refusal := runFormat 9 f3 validateOther s

/-- DF 10, not assigned: class OTHER (R146). -/
def execDf10 (f3 : BitVec 3) (s : State) : Host.Outcome State Fault Refusal := runFormat 10 f3 validateOther s

/-- DF 11, all-call reply: class PI (R142). -/
def execDf11 (f3 : BitVec 3) (s : State) : Host.Outcome State Fault Refusal := runFormat 11 f3 validatePi s

/-- DF 12, not assigned: class OTHER (R146). -/
def execDf12 (f3 : BitVec 3) (s : State) : Host.Outcome State Fault Refusal := runFormat 12 f3 validateOther s

/-- DF 13, not assigned: class OTHER (R146). -/
def execDf13 (f3 : BitVec 3) (s : State) : Host.Outcome State Fault Refusal := runFormat 13 f3 validateOther s

/-- DF 14, not assigned: class OTHER (R146). -/
def execDf14 (f3 : BitVec 3) (s : State) : Host.Outcome State Fault Refusal := runFormat 14 f3 validateOther s

/-- DF 15, not assigned: class OTHER (R146). -/
def execDf15 (f3 : BitVec 3) (s : State) : Host.Outcome State Fault Refusal := runFormat 15 f3 validateOther s

/-- DF 16, long air-air surveillance: class AP (R145). -/
def execDf16 (f3 : BitVec 3) (s : State) : Host.Outcome State Fault Refusal := runFormat 16 f3 validateAp s

/-- DF 17, extended squitter: class PI (R142). -/
def execDf17 (f3 : BitVec 3) (s : State) : Host.Outcome State Fault Refusal := runFormat 17 f3 validatePi s

/-- DF 18, extended squitter, non-transponder: class PI (R142). -/
def execDf18 (f3 : BitVec 3) (s : State) : Host.Outcome State Fault Refusal := runFormat 18 f3 validatePi s

/-- DF 19, military extended squitter: class PI (R142). -/
def execDf19 (f3 : BitVec 3) (s : State) : Host.Outcome State Fault Refusal := runFormat 19 f3 validatePi s

/-- DF 20, Comm-B altitude reply: class AP (R145). -/
def execDf20 (f3 : BitVec 3) (s : State) : Host.Outcome State Fault Refusal := runFormat 20 f3 validateAp s

/-- DF 21, Comm-B identity reply: class AP (R145). -/
def execDf21 (f3 : BitVec 3) (s : State) : Host.Outcome State Fault Refusal := runFormat 21 f3 validateAp s

/-- DF 22, not assigned: class OTHER (R146). -/
def execDf22 (f3 : BitVec 3) (s : State) : Host.Outcome State Fault Refusal := runFormat 22 f3 validateOther s

/-- DF 23, not assigned: class OTHER (R146). -/
def execDf23 (f3 : BitVec 3) (s : State) : Host.Outcome State Fault Refusal := runFormat 23 f3 validateOther s

/-- DF 24, Comm-D extended-length message: class AP (R145). -/
def execDf24 (f3 : BitVec 3) (s : State) : Host.Outcome State Fault Refusal := runFormat 24 f3 validateAp s

/-- DF 25, Comm-D extended-length message: class AP (R145). -/
def execDf25 (f3 : BitVec 3) (s : State) : Host.Outcome State Fault Refusal := runFormat 25 f3 validateAp s

/-- DF 26, Comm-D extended-length message: class AP (R145). -/
def execDf26 (f3 : BitVec 3) (s : State) : Host.Outcome State Fault Refusal := runFormat 26 f3 validateAp s

/-- DF 27, Comm-D extended-length message: class AP (R145). -/
def execDf27 (f3 : BitVec 3) (s : State) : Host.Outcome State Fault Refusal := runFormat 27 f3 validateAp s

/-- DF 28, Comm-D extended-length message: class AP (R145). -/
def execDf28 (f3 : BitVec 3) (s : State) : Host.Outcome State Fault Refusal := runFormat 28 f3 validateAp s

/-- DF 29, Comm-D extended-length message: class AP (R145). -/
def execDf29 (f3 : BitVec 3) (s : State) : Host.Outcome State Fault Refusal := runFormat 29 f3 validateAp s

/-- DF 30, Comm-D extended-length message: class AP (R145). -/
def execDf30 (f3 : BitVec 3) (s : State) : Host.Outcome State Fault Refusal := runFormat 30 f3 validateAp s

/-- DF 31, Comm-D extended-length message: class AP (R145). -/
def execDf31 (f3 : BitVec 3) (s : State) : Host.Outcome State Fault Refusal := runFormat 31 f3 validateAp s

end Sys2Proof.Machine
end

