-- ==== Sys2Proof/Machine/Framer.lean ====
section
/-! DEFINITION. The frame assembler FRAME: candidates, the length probe, makeFrame, and the step FE_FRAME (42_framer.md). -/

namespace Sys2Proof.Machine

/-- The pass-local registers of one candidate (R28), with the framer's `abandoned`. The scan position p is the pass function's argument.
None survives a pass, so they are no part of State (A16). -/
structure FrameRegs where
  q : Nat
  cnt : Nat
  flen : FrameLen
  acc : List Byte
  abandoned : Bool
deriving DecidableEq, Repr

/-- The registers at a candidate's start (R113): flen is 112 until the probe, the 14 bytes are zero. -/
def FrameRegs.init (p : Nat) : FrameRegs :=
  { q := p, cnt := 0, flen := .long, acc := List.replicate 14 0, abandoned := false }

/-- A word is a bit if and only if it is at most 1 (R114). -/
def isBitWord (x : W16) : Bool := x ≤ 1

/-- Bit number cnt with value x is ORed into acc (R115). -/
def accumulate (acc : List Byte) (cnt : Nat) (x : W16) : List Byte :=
  if x = 1 then acc.set (cnt / 8) (acc.getD (cnt / 8) 0 ||| (1#8 <<< (7 - cnt % 8))) else acc

/-- The candidate from its registers on, over at most `fuel` bits (R113, R115–R117). -/
def candidateFrom (w : List W16) : Nat → FrameRegs → FrameRegs
  | 0, r => r
  | fuel + 1, r =>
    if r.q < w.length ∧ isBitWord (w.getD r.q 0) = true ∧ r.cnt < r.flen.bits then
      let acc := accumulate r.acc r.cnt (w.getD r.q 0)
      if r.cnt = 7 ∧ acc.getD 0 0 = 0 then { r with acc := acc, abandoned := true }
      else
        candidateFrom w fuel
          { r with acc := acc, q := r.q + 1, cnt := r.cnt + 1,
                   flen := if r.cnt = 7 then FrameLen.ofByte0 (acc.getD 0 0) else r.flen }
    else r

/-- The candidate that starts at p; it takes at most 112 bits. -/
def candidate (w : List W16) (p : Nat) : FrameRegs := candidateFrom w 113 (FrameRegs.init p)

/-- Acceptance (R118). -/
def FrameRegs.accepted (r : FrameRegs) : Bool := !r.abandoned && decide (r.flen.bits ≤ r.cnt + 1)

/-- The frame handed to makeFrame (R118, R122): flen / 8 bytes of acc, with the intended length. -/
def FrameRegs.toFrame (r : FrameRegs) : RawFrame := { bytes := r.acc.take r.flen.bytes, len := r.flen }

/-- `MakeFrame` (R120–R122): the frame handed on, none where the quality-0 filter rejects it. The length check on 56 or 112 never rejects
(R120). -/
def makeFrame (quality : Byte) (f : RawFrame) : Option RawFrame :=
  if f.len.bits < 56 then none
  else if quality = 0 ∧ selfIdentifying (msgDf f.bytes) = false then none
  else some f

/-- The pass from scan position p on: the frames appended to PENDING and the number of frames makeFrame rejected (R113, R119). -/
def framePassFrom (skip : Nat) (quality : Byte) (w : List W16) : Nat → Nat → List RawFrame × Nat
  | 0, _ => ([], 0)
  | fuel + 1, p =>
    if p < w.length then
      if isBitWord (w.getD p 0) then
        let r := candidate w p
        let rest := framePassFrom skip quality w fuel (r.q + skip)
        if r.accepted then
          match makeFrame quality r.toFrame with
          | some f => (f :: rest.1, rest.2)
          | none => (rest.1, rest.2 + 1)
        else rest
      else framePassFrom skip quality w fuel (p + 1)
    else ([], 0)

/-- One FRAME pass over the words of a block (R113). Every turn moves p forward (R119), so the number of words bounds the turns. -/
def framePass (skip : Nat) (quality : Byte) (w : List W16) : List RawFrame × Nat :=
  framePassFrom skip quality w (w.length + 1) 0

/-- FE_FRAME's effect (R113). It does not write W. -/
def feFrame (s : State) : State :=
  let out := framePass s.params.resumeSkip (cfgQuality s.cfg) s.words
  { s.count .frmRej out.2 with pending := out.1, fePhase := .emit }

/-- FE_FRAME, label 0x13 (R113). -/
def execFeFrame (s : State) : Host.Outcome State Fault Refusal :=
  whenEnabled (s.fePhase = .frame) feFrame s

end Sys2Proof.Machine
end

