-- ==== Sys2Proof/Machine/HostPort.lean ====
section
/-! DEFINITION. The host transactions and commands, and their pseudo-transactions (47_host_interface.md). -/

namespace Sys2Proof.Machine

/-! ### Shared: the register port and the commands -/

/-- The counter at a register index (R21). -/
def counterAt (r : BitVec 6) : Option Counter :=
  match r.toNat with
  | 4 => some .blkIn
  | 5 => some .blkDrop
  | 6 => some .blkDiscard
  | 7 => some .blkDone
  | 8 => some .frmOut
  | 9 => some .frmRej
  | 10 => some .msgDirect
  | 11 => some .msgFixed
  | 12 => some .msgAp
  | 13 => some .msgFail
  | 14 => some .msgOut
  | _ => none

/-- The value a REG_READ returns (R187). -/
def State.regRead (s : State) (r : BitVec 6) : W32 :=
  if r = 0 then 0
  else if r = 1 then s.status
  else if r = 2 then s.cfgRead
  else if r = 3 then s.faultRead
  else match counterAt r with
    | some c => s.counters.get c
    | none => 0

/-- `CfgWrite(v)` (R189). -/
def cfgWrite (v : W32) (s : State) : State :=
  if s.runState = .idle then { s with cfg := cfgOfWrite v } else s.raise .cfgWhileRunning

/-- `Start()` (R191). -/
def cmdStart (s : State) : State := if s.runState = .idle then { s with runState := .running } else s

/-- `Stop()` (R192). -/
def cmdStop (s : State) : State :=
  match s.runState with
  | .running => { s with runState := .stopping }
  | .idle => { s with runState := .halted, fePhase := .halted, dePhase := .halted }
  | .stopping => s
  | .halted => s

/-- `Command(v)` (R190). -/
def command (v : W32) (s : State) : State :=
  if v = 1 then cmdStart s
  else if v = 2 then cmdStop s
  else if v = 3 then s.resetBlock
  else s.raise .badCmd

/-- `RegWrite(r, v)` (R188, R196). -/
def regWrite (r : BitVec 6) (v : W32) (s : State) : State :=
  if r = 0 then command v s else if r = 2 then cfgWrite v s else s

/-- `SubmitBlock(L, P)` (R194). -/
def submitBlock (payload : List Byte) (s : State) : State :=
  if s.runState = .running && s.iqRoom then
    ({ s.count .blkIn 1 with iq := enqueue s.iq payload }).respond (.accepted true)
  else (s.count .blkDrop 1).respond (.accepted false)

/-- `PopMsg()` (R195). -/
def popMsg (s : State) : State :=
  match s.oq with
  | [] => s.respond .empty
  | m :: q => ({ s with oq := q }).respond (.record m)

/-! ### The transactions of the table -/

/-- `RD r` (R187). -/
def execRdR (r : BitVec 6) (s : State) : Host.Outcome State Fault Refusal := .next (s.respond (.value (s.regRead r)))

/-- `WR 0, 1` (R191). -/
def execWr0Start (s : State) : Host.Outcome State Fault Refusal := .next ((cmdStart s).respond .nothing)

/-- `WR 0, 2` (R192). -/
def execWr0Stop (s : State) : Host.Outcome State Fault Refusal := .next ((cmdStop s).respond .nothing)

/-- `WR 0, 3` (R193). -/
def execWr0Reset (s : State) : Host.Outcome State Fault Refusal := .next (s.resetBlock.respond .nothing)

/-- `WR 0, v` with v no command (R190, R207). -/
def execWr0Undefined (v : W32) (s : State) : Host.Outcome State Fault Refusal := .next ((command v s).respond .nothing)

/-- `WR 2, v` (R189). -/
def execWr2Cfg (v : W32) (s : State) : Host.Outcome State Fault Refusal := .next ((cfgWrite v s).respond .nothing)

/-- `WR r, v` with r neither CMD nor CFG (R188, R196). -/
def execWrOther (r : BitVec 6) (v : W32) (s : State) : Host.Outcome State Fault Refusal :=
  .next ((regWrite r v s).respond .nothing)

/-- `SUBMIT <bytes>` (R194). -/
def execSubmit (payload : List Byte) (s : State) : Host.Outcome State Fault Refusal := .next (submitBlock payload s)

/-- `POP` (R195). -/
def execPop (s : State) : Host.Outcome State Fault Refusal := .next (popMsg s)

/-! ### The pseudo-transactions: each acts as its expansion (R67) -/

/-- `START`: `WR 0, 0x1`. -/
def execStart (s : State) : Host.Outcome State Fault Refusal := .next ((regWrite 0 1 s).respond .nothing)

/-- `STOP`: `WR 0, 0x2`. -/
def execStop (s : State) : Host.Outcome State Fault Refusal := .next ((regWrite 0 2 s).respond .nothing)

/-- `RESET`: `WR 0, 0x3`. -/
def execReset (s : State) : Host.Outcome State Fault Refusal := .next ((regWrite 0 3 s).respond .nothing)

/-- `CFG q, ae, f1, f2, c, m`: `WR 2, (m<<19) | (c<<18) | (f2<<17) | (f1<<16) | (ae<<8) | q`. -/
def execCfgWrite (q ae : Byte) (f1 f2 c m : BitVec 1) (s : State) : Host.Outcome State Fault Refusal :=
  .next ((regWrite 2 (cfgData q ae f1 f2 c m) s).respond .nothing)

/-- `RDSTATUS`: `RD 1`. -/
def execRdStatus (s : State) : Host.Outcome State Fault Refusal := .next (s.respond (.value (s.regRead 1)))

end Sys2Proof.Machine
end

