-- ==== Sys2Proof/Machine/Magnitude.lean ====
section
/-! DEFINITION. The magnitude extractor MAG: the square table and the step FE_MAG (40_magnitude.md). -/

namespace Sys2Proof.Machine

/-- The square table `sq` (R89), computed. -/
def sq (x : Byte) : W16 :=
  BitVec.ofNat 16 (if 128 ≤ x.toNat then (x.toNat - 128) ^ 2 else (128 - x.toNat) ^ 2)

/-- The magnitude of a pair (R90). -/
def magnitude (i q : Byte) : W16 := sq i + sq q

/-- The magnitudes of the pairs of a byte sequence (R90; "A model may take MAG as one step that maps the whole block at once", R50). -/
def magWords : List Byte → List W16
  | i :: q :: bs => magnitude i q :: magWords bs
  | _ => []

/-- FE_MAG's effect (R90). -/
def feMag (s : State) : State :=
  { s.setWords (magWords (s.mem.load (2 * s.wordCount))) with fePhase := .demod }

/-- FE_MAG, label 0x11 (R90). -/
def execFeMag (s : State) : Host.Outcome State Fault Refusal :=
  whenEnabled (s.fePhase = .mag) feMag s

end Sys2Proof.Machine
end

