-- ==== Sys2Proof/Machine/Queues.lean ====
section
/-! DEFINITION. The steps that move units between stages: FE_TAKE, FE_EMIT, FE_HALT, DE_TAKE, DE_EMIT (43_queues.md). -/

namespace Sys2Proof.Machine

/-! ### FE_TAKE (R129) -/

/-- FE_TAKE is enabled. -/
def feTakeEnabled (s : State) : Bool := decide (s.fePhase = .idle ∧ s.runState = .running ∧ s.iq ≠ [])

/-- The block x, just dequeued, is checked in the order of R206: sentinel, odd, oversize; else FE takes it. -/
def takeBlock (x : List Byte) (s : State) : State :=
  if x.length = 0 then { s with runState := .stopping }
  else if x.length % 2 = 1 then (s.raise .oddLen).count .blkDiscard 1
  else if s.params.maxBlockBytes < x.length then (s.raise .oversize).count .blkDiscard 1
  else { s with mem := s.mem.store x, blkLen := some x.length, fePhase := .mag }

/-- FE_TAKE's effect. -/
def feTake (s : State) : State :=
  match s.iq with
  | x :: q => takeBlock x { s with iq := q }
  | [] => s

/-- FE_TAKE, label 0x10 (R129). -/
def execFeTake (s : State) : Host.Outcome State Fault Refusal := whenEnabled (feTakeEnabled s) feTake s

/-! ### FE_EMIT (R130) -/

/-- FE_EMIT is enabled; it holds while PENDING ≠ [] and FQ is full (R127). -/
def feEmitEnabled (s : State) : Bool := decide (s.fePhase = .emit) && (decide (s.pending = []) || s.fqRoom)

/-- FE_EMIT's effect: one frame into FQ, or, with PENDING empty, the block is done and its buffer released (A13). -/
def feEmit (s : State) : State :=
  match s.pending with
  | [] => { s.count .blkDone 1 with fePhase := .idle, blkLen := none, mem := [] }
  | f :: fs => { s.count .frmOut 1 with fq := enqueue s.fq (.frame f), pending := fs }

/-- FE_EMIT, label 0x14 (R130). -/
def execFeEmit (s : State) : Host.Outcome State Fault Refusal := whenEnabled (feEmitEnabled s) feEmit s

/-! ### FE_HALT (R133) -/

/-- FE_HALT is enabled; it holds while FQ is full. -/
def feHaltEnabled (s : State) : Bool := decide (s.fePhase = .idle ∧ s.runState = .stopping) && s.fqRoom

/-- FE_HALT's effect: the blocks left in IQ are discarded and counted, END enters FQ. -/
def feHalt (s : State) : State :=
  { s.count .blkDiscard s.iq.length with iq := [], fq := enqueue s.fq .endMark, fePhase := .halted }

/-- FE_HALT, label 0x15 (R133). -/
def execFeHalt (s : State) : Host.Outcome State Fault Refusal := whenEnabled (feHaltEnabled s) feHalt s

/-! ### DE_TAKE (R134) -/

/-- DE_TAKE is enabled. -/
def deTakeEnabled (s : State) : Bool := decide (s.dePhase = .idle ∧ s.fq ≠ [])

/-- DE_TAKE's effect. -/
def deTake (s : State) : State :=
  match s.fq with
  | .endMark :: q => { s with fq := q, dePhase := .halted, runState := .halted }
  | .frame f :: q => { s with fq := q, frame := some f, dePhase := .decode }
  | [] => s

/-- DE_TAKE, label 0x20 (R134). -/
def execDeTake (s : State) : Host.Outcome State Fault Refusal := whenEnabled (deTakeEnabled s) deTake s

/-! ### DE_EMIT (R135) -/

/-- DE_EMIT is enabled; it holds while OQ is full (R128). -/
def deEmitEnabled (s : State) : Bool := decide (s.dePhase = .emit) && s.oqRoom

/-- DE_EMIT's effect. M leaves DE with its enqueue (R56; A13). -/
def deEmit (s : State) : State :=
  match s.msg with
  | some m => { s.count .msgOut 1 with oq := enqueue s.oq m, msg := none, dePhase := .idle }
  | none => s

/-- DE_EMIT, label 0x22 (R135). -/
def execDeEmit (s : State) : Host.Outcome State Fault Refusal := whenEnabled (deEmitEnabled s) deEmit s

end Sys2Proof.Machine
end

