-- ==== Sys2Proof/Machine/Dispatch.lean ====
section
/-! DEFINITION. The dispatch: one arm per constructor of Instr. -/

namespace Sys2Proof.Machine

def exec (i : Instr) (s : State) : Host.Outcome State Fault Refusal :=
  match i with
  | .rdR r => Sys2Proof.Machine.execRdR r s
  | .wr0Start => Sys2Proof.Machine.execWr0Start s
  | .wr0Stop => Sys2Proof.Machine.execWr0Stop s
  | .wr0Reset => Sys2Proof.Machine.execWr0Reset s
  | .wr0Undefined v => Sys2Proof.Machine.execWr0Undefined v s
  | .wr2Cfg v => Sys2Proof.Machine.execWr2Cfg v s
  | .wrOther r v => Sys2Proof.Machine.execWrOther r v s
  | .submit payload => Sys2Proof.Machine.execSubmit payload s
  | .pop => Sys2Proof.Machine.execPop s
  | .start => Sys2Proof.Machine.execStart s
  | .stop => Sys2Proof.Machine.execStop s
  | .reset => Sys2Proof.Machine.execReset s
  | .cfgWrite q ae f1 f2 c m => Sys2Proof.Machine.execCfgWrite q ae f1 f2 c m s
  | .rdStatus => Sys2Proof.Machine.execRdStatus s
  | .feTake => Sys2Proof.Machine.execFeTake s
  | .feMag => Sys2Proof.Machine.execFeMag s
  | .feDemod => Sys2Proof.Machine.execFeDemod s
  | .feFrame => Sys2Proof.Machine.execFeFrame s
  | .feEmit => Sys2Proof.Machine.execFeEmit s
  | .feHalt => Sys2Proof.Machine.execFeHalt s
  | .deTake => Sys2Proof.Machine.execDeTake s
  | .deDecode => Sys2Proof.Machine.execDeDecode s
  | .deEmit => Sys2Proof.Machine.execDeEmit s
  | .df0 f3 => Sys2Proof.Machine.execDf0 f3 s
  | .df1 f3 => Sys2Proof.Machine.execDf1 f3 s
  | .df2 f3 => Sys2Proof.Machine.execDf2 f3 s
  | .df3 f3 => Sys2Proof.Machine.execDf3 f3 s
  | .df4 f3 => Sys2Proof.Machine.execDf4 f3 s
  | .df5 f3 => Sys2Proof.Machine.execDf5 f3 s
  | .df6 f3 => Sys2Proof.Machine.execDf6 f3 s
  | .df7 f3 => Sys2Proof.Machine.execDf7 f3 s
  | .df8 f3 => Sys2Proof.Machine.execDf8 f3 s
  | .df9 f3 => Sys2Proof.Machine.execDf9 f3 s
  | .df10 f3 => Sys2Proof.Machine.execDf10 f3 s
  | .df11 f3 => Sys2Proof.Machine.execDf11 f3 s
  | .df12 f3 => Sys2Proof.Machine.execDf12 f3 s
  | .df13 f3 => Sys2Proof.Machine.execDf13 f3 s
  | .df14 f3 => Sys2Proof.Machine.execDf14 f3 s
  | .df15 f3 => Sys2Proof.Machine.execDf15 f3 s
  | .df16 f3 => Sys2Proof.Machine.execDf16 f3 s
  | .df17 f3 => Sys2Proof.Machine.execDf17 f3 s
  | .df18 f3 => Sys2Proof.Machine.execDf18 f3 s
  | .df19 f3 => Sys2Proof.Machine.execDf19 f3 s
  | .df20 f3 => Sys2Proof.Machine.execDf20 f3 s
  | .df21 f3 => Sys2Proof.Machine.execDf21 f3 s
  | .df22 f3 => Sys2Proof.Machine.execDf22 f3 s
  | .df23 f3 => Sys2Proof.Machine.execDf23 f3 s
  | .df24 f3 => Sys2Proof.Machine.execDf24 f3 s
  | .df25 f3 => Sys2Proof.Machine.execDf25 f3 s
  | .df26 f3 => Sys2Proof.Machine.execDf26 f3 s
  | .df27 f3 => Sys2Proof.Machine.execDf27 f3 s
  | .df28 f3 => Sys2Proof.Machine.execDf28 f3 s
  | .df29 f3 => Sys2Proof.Machine.execDf29 f3 s
  | .df30 f3 => Sys2Proof.Machine.execDf30 f3 s
  | .df31 f3 => Sys2Proof.Machine.execDf31 f3 s
  | .meTc0 st => Sys2Proof.Machine.execMeTc0 st s
  | .meTc1 st => Sys2Proof.Machine.execMeTc1 st s
  | .meTc2 st => Sys2Proof.Machine.execMeTc2 st s
  | .meTc3 st => Sys2Proof.Machine.execMeTc3 st s
  | .meTc4 st => Sys2Proof.Machine.execMeTc4 st s
  | .meTc5 st => Sys2Proof.Machine.execMeTc5 st s
  | .meTc6 st => Sys2Proof.Machine.execMeTc6 st s
  | .meTc7 st => Sys2Proof.Machine.execMeTc7 st s
  | .meTc8 st => Sys2Proof.Machine.execMeTc8 st s
  | .meTc9 st => Sys2Proof.Machine.execMeTc9 st s
  | .meTc10 st => Sys2Proof.Machine.execMeTc10 st s
  | .meTc11 st => Sys2Proof.Machine.execMeTc11 st s
  | .meTc12 st => Sys2Proof.Machine.execMeTc12 st s
  | .meTc13 st => Sys2Proof.Machine.execMeTc13 st s
  | .meTc14 st => Sys2Proof.Machine.execMeTc14 st s
  | .meTc15 st => Sys2Proof.Machine.execMeTc15 st s
  | .meTc16 st => Sys2Proof.Machine.execMeTc16 st s
  | .meTc17 st => Sys2Proof.Machine.execMeTc17 st s
  | .meTc18 st => Sys2Proof.Machine.execMeTc18 st s
  | .meTc19St0 => Sys2Proof.Machine.execMeTc19St0 s
  | .meTc19St1 => Sys2Proof.Machine.execMeTc19St1 s
  | .meTc19St2 => Sys2Proof.Machine.execMeTc19St2 s
  | .meTc19St3 => Sys2Proof.Machine.execMeTc19St3 s
  | .meTc19St4 => Sys2Proof.Machine.execMeTc19St4 s
  | .meTc19St5 => Sys2Proof.Machine.execMeTc19St5 s
  | .meTc19St6 => Sys2Proof.Machine.execMeTc19St6 s
  | .meTc19St7 => Sys2Proof.Machine.execMeTc19St7 s
  | .meTc20 st => Sys2Proof.Machine.execMeTc20 st s
  | .meTc21 st => Sys2Proof.Machine.execMeTc21 st s
  | .meTc22 st => Sys2Proof.Machine.execMeTc22 st s
  | .meTc23 st => Sys2Proof.Machine.execMeTc23 st s
  | .meTc24 st => Sys2Proof.Machine.execMeTc24 st s
  | .meTc25 st => Sys2Proof.Machine.execMeTc25 st s
  | .meTc26 st => Sys2Proof.Machine.execMeTc26 st s
  | .meTc27 st => Sys2Proof.Machine.execMeTc27 st s
  | .meTc28 st => Sys2Proof.Machine.execMeTc28 st s
  | .meTc29 st => Sys2Proof.Machine.execMeTc29 st s
  | .meTc30 st => Sys2Proof.Machine.execMeTc30 st s
  | .meTc31 st => Sys2Proof.Machine.execMeTc31 st s

end Sys2Proof.Machine
end

