-- ==== Sys2Proof/Machine/Fetch.lean ====
section
/-! DEFINITION. What the machine runs next: the head of the agenda, and where the agenda is empty an enabled step of FE or DE; and how a
table word is placed so that the next step runs it. -/

namespace Sys2Proof.Machine

/-- FE's enabled step, at most one (R90, R94, R113, R129, R130, R133). -/
def feNext (s : State) : Option Instr :=
  match s.fePhase with
  | .idle => if feTakeEnabled s then some .feTake else if feHaltEnabled s then some .feHalt else none
  | .mag => some .feMag
  | .demod => some .feDemod
  | .frame => some .feFrame
  | .emit => if feEmitEnabled s then some .feEmit else none
  | .halted => none

/-- DE's enabled step, at most one (R134, R135, R138). -/
def deNext (s : State) : Option Instr :=
  match s.dePhase with
  | .idle => if deTakeEnabled s then some .deTake else none
  | .decode => some .deDecode
  | .emit => if deEmitEnabled s then some .deEmit else none
  | .halted => none

/-- What `step` finds to do. -/
inductive Fetched where
  /-- run i in the state s -/
  | run (i : Instr) (s : State)
  /-- the RST input (R218), in the state s -/
  | reset (s : State)
  /-- no step is enabled and no input waits: the block rests (R137, R216) -/
  | rest
  /-- the next entry is no instruction (R64) -/
  | refuse (e : DecodeError)
deriving DecidableEq, Repr

/-- The head of the agenda is taken first; with an empty agenda an enabled step of FE or DE, by a free choice where both have one (R15,
A1). -/
def fetch (s : State) : Fetched :=
  match s.agenda with
  | .rst :: rest => .reset { s with agenda := rest }
  | .run e :: rest =>
    match decode e with
    | .ok i => .run i { s with agenda := rest }
    | .error err => .refuse err
  | [] =>
    match feNext s, deNext s with
    | some i, none => .run i s
    | none, some j => .run j s
    | some i, some j => .run (if Config.freeChoice s.draws then i else j) { s with draws := s.draws + 1 }
    | none, none => .rest

/-! ### Placing a table word -/

/-- The frame whose byte 0 is b, every later bit 0. -/
def frameOfByte0 (b : Byte) : RawFrame :=
  { bytes := b :: List.replicate ((FrameLen.ofByte0 b).bytes - 1) 0, len := FrameLen.ofByte0 b }

/-- The DF17 frame whose byte 4 is b, every other data bit 0, with the parity field its checksum asks for. -/
def frameOfByte4 (b : Byte) : RawFrame :=
  let data := [0x88, 0, 0, 0, b, 0, 0, 0, 0, 0, 0]
  let c := crc 112 data
  { bytes := data ++ [c.extractLsb' 16 8, c.extractLsb' 8 8, c.extractLsb' 0 8], len := .long }

/-- What the bits of an encoded form need besides a place on the agenda: a DF byte and an ME byte stand in the frame DE decodes (A18). -/
def placeOperands (e : Encoded) (s : State) : State :=
  match e with
  | .dfByte b => { s with frame := some (frameOfByte0 b), dePhase := .decode }
  | .meByte b => { s with frame := some (frameOfByte4 b), dePhase := .decode }
  | .txn _ _ => s
  | .pseudo _ => s
  | .label _ => s

/-- The state s with a table word stored where the next step fetches (A18). A word of no format is placed as the transaction word of its low 40
bits, without a payload. -/
def placeWord (s : State) (nbits w : Nat) : State :=
  let e := (tableEncoded nbits w).getD (.txn (BitVec.ofNat 40 w) [])
  let s' := placeOperands e s
  { s' with agenda := .run e :: s'.agenda }

end Sys2Proof.Machine
end

