-- ==== Sys2Proof/Machine/Step.lean ====
section
/-! DEFINITION. One step of the block, and the placing of a table word for it. -/

namespace Sys2Proof.Machine

/-- One step: the parameters are checked (R6), then what `fetch` finds is done. -/
def step (s : State) : Host.Outcome State Fault Refusal :=
  if paramsOk s.params then
    match fetch s with
    | .run i s' => exec i s'
    | .reset s' => .next s'.resetBlock
    | .rest => .next s
    | .refuse e => .refused (.malformed e)
  else .fault .badParameters

/-- s with the instruction of a table word stored where `step` fetches its next instruction (A18). -/
def State.withFetchWord (s : State) (nbits w : Nat) : State := placeWord s nbits w

end Sys2Proof.Machine
end

