-- ==== Sys2Proof/Safety.lean ====
section
/-! DEFINITION. The terms the claims are stated in: which agent takes an instruction, when a step of FE or DE is enabled, the events that
reset the block, the invariant of the block, what DE_DECODE leaves, and the signals, bits and tables of the spec written a second time
from its text. -/

namespace Sys2Proof.Machine

/-! ### Agents and enabling -/

/-- The agents that take steps (R15, R214). -/
inductive Agent where
  | host
  | fe
  | de
deriving DecidableEq, Repr

/-- The agent that takes an instruction: HOST the transactions, FE and DE their steps (R15). A downlink-format row and an ME row is a
DE_DECODE (A9). -/
def agentOf : Instr → Agent
  | .rdR _ => .host
  | .wr0Start => .host
  | .wr0Stop => .host
  | .wr0Reset => .host
  | .wr0Undefined _ => .host
  | .wr2Cfg _ => .host
  | .wrOther _ _ => .host
  | .submit _ => .host
  | .pop => .host
  | .start => .host
  | .stop => .host
  | .reset => .host
  | .cfgWrite _ _ _ _ _ _ => .host
  | .rdStatus => .host
  | .feTake => .fe
  | .feMag => .fe
  | .feDemod => .fe
  | .feFrame => .fe
  | .feEmit => .fe
  | .feHalt => .fe
  | .deTake => .de
  | .deDecode => .de
  | .deEmit => .de
  | .df0 _ => .de
  | .df1 _ => .de
  | .df2 _ => .de
  | .df3 _ => .de
  | .df4 _ => .de
  | .df5 _ => .de
  | .df6 _ => .de
  | .df7 _ => .de
  | .df8 _ => .de
  | .df9 _ => .de
  | .df10 _ => .de
  | .df11 _ => .de
  | .df12 _ => .de
  | .df13 _ => .de
  | .df14 _ => .de
  | .df15 _ => .de
  | .df16 _ => .de
  | .df17 _ => .de
  | .df18 _ => .de
  | .df19 _ => .de
  | .df20 _ => .de
  | .df21 _ => .de
  | .df22 _ => .de
  | .df23 _ => .de
  | .df24 _ => .de
  | .df25 _ => .de
  | .df26 _ => .de
  | .df27 _ => .de
  | .df28 _ => .de
  | .df29 _ => .de
  | .df30 _ => .de
  | .df31 _ => .de
  | .meTc0 _ => .de
  | .meTc1 _ => .de
  | .meTc2 _ => .de
  | .meTc3 _ => .de
  | .meTc4 _ => .de
  | .meTc5 _ => .de
  | .meTc6 _ => .de
  | .meTc7 _ => .de
  | .meTc8 _ => .de
  | .meTc9 _ => .de
  | .meTc10 _ => .de
  | .meTc11 _ => .de
  | .meTc12 _ => .de
  | .meTc13 _ => .de
  | .meTc14 _ => .de
  | .meTc15 _ => .de
  | .meTc16 _ => .de
  | .meTc17 _ => .de
  | .meTc18 _ => .de
  | .meTc19St0 => .de
  | .meTc19St1 => .de
  | .meTc19St2 => .de
  | .meTc19St3 => .de
  | .meTc19St4 => .de
  | .meTc19St5 => .de
  | .meTc19St6 => .de
  | .meTc19St7 => .de
  | .meTc20 _ => .de
  | .meTc21 _ => .de
  | .meTc22 _ => .de
  | .meTc23 _ => .de
  | .meTc24 _ => .de
  | .meTc25 _ => .de
  | .meTc26 _ => .de
  | .meTc27 _ => .de
  | .meTc28 _ => .de
  | .meTc29 _ => .de
  | .meTc30 _ => .de
  | .meTc31 _ => .de

/-- A step of FE or DE is enabled: the line "*Enabled* when" of each step's rule. -/
inductive StepEnabled : Instr → State → Prop where
  /-- R129 -/
  | feTake (s : State) (hp : s.fePhase = .idle) (hr : s.runState = .running) (hq : s.iq ≠ []) : StepEnabled .feTake s
  /-- R90 -/
  | feMag (s : State) (hp : s.fePhase = .mag) : StepEnabled .feMag s
  /-- R94 -/
  | feDemod (s : State) (hp : s.fePhase = .demod) : StepEnabled .feDemod s
  /-- R113 -/
  | feFrame (s : State) (hp : s.fePhase = .frame) : StepEnabled .feFrame s
  /-- R130 -/
  | feEmit (s : State) (hp : s.fePhase = .emit) (hq : s.pending = [] ∨ s.fq.length < s.params.fqCap) : StepEnabled .feEmit s
  /-- R133 -/
  | feHalt (s : State) (hp : s.fePhase = .idle) (hr : s.runState = .stopping) (hq : s.fq.length < s.params.fqCap) :
      StepEnabled .feHalt s
  /-- R134 -/
  | deTake (s : State) (hp : s.dePhase = .idle) (hq : s.fq ≠ []) : StepEnabled .deTake s
  /-- R138 -/
  | deDecode (s : State) (hp : s.dePhase = .decode) : StepEnabled .deDecode s
  /-- R135 -/
  | deEmit (s : State) (hp : s.dePhase = .emit) (hq : s.oq.length < s.params.oqCap) : StepEnabled .deEmit s

/-- The next entry of the agenda runs i. -/
def NextRuns (i : Instr) (s : State) : Prop :=
  ∃ e rest, s.agenda = .run e :: rest ∧ decode e = .ok i

/-- A step of s runs i, in the state u: the agenda's next entry, or with an empty agenda an enabled step, the free choice between two
counted as a draw (R15; A1). -/
def RunsIn (i : Instr) (u s : State) : Prop :=
  (∃ e rest, s.agenda = .run e :: rest ∧ decode e = .ok i ∧ u = { s with agenda := rest })
    ∨ (s.agenda = [] ∧ StepEnabled i s ∧ (∀ j, StepEnabled j s → j = i) ∧ u = s)
    ∨ (s.agenda = [] ∧ StepEnabled i s ∧ (∃ j, StepEnabled j s ∧ j ≠ i) ∧ u = { s with draws := s.draws + 1 })

/-- The next entry of the agenda resets the block: the RST input, or CMD RESET in either of its written forms (R218). -/
def NextResets (s : State) : Prop :=
  (∃ rest, s.agenda = .rst :: rest) ∨ NextRuns .wr0Reset s ∨ NextRuns .reset s

/-! ### The invariant -/

/-- A RawFrame's bytes and lengths agree: bit_length / 8 bytes (R70), and the length that bit 7 of byte 0 says (R73). -/
def RawFrame.Ok (f : RawFrame) : Prop :=
  f.bytes.length = f.len.bytes ∧ f.len = FrameLen.ofByte0 (f.bytes.getD 0 0)

/-- What holds of the block in every state a run from reset can reach, and what every step keeps. -/
structure State.Inv (s : State) : Prop where
  /-- the parameters meet the constraints of R6 -/
  params_ok : paramsOk s.params = true
  /-- the buffer is in canonical form -/
  mem_wf : s.mem.wf
  /-- the buffer holds nothing outside the current block, and nothing where there is none (R45) -/
  mem_in_block : ∀ c ∈ s.mem, c.1 < s.blkLen.getD 0
  /-- the current block's length is even, 2 ≤ L ≤ MAX_BLOCK_BYTES (R90) -/
  blk_len : ∀ n, s.blkLen = some n → n % 2 = 0 ∧ 2 ≤ n ∧ n ≤ s.params.maxBlockBytes
  /-- the cache is in canonical form -/
  cache_wf : sparseWf CacheSlot.empty s.cache
  /-- a slot that is not as reset left it is inside the table, valid, and holds an address of that slot (R153, R154) -/
  cache_slots : ∀ e ∈ s.cache, e.1 < s.params.cacheLen ∧ e.2.valid = true ∧ cacheSlot s.params e.2.addr = e.1
  /-- no queue exceeds its capacity (R23, R24, R25) -/
  iq_cap : s.iq.length ≤ s.params.iqCap
  fq_cap : s.fq.length ≤ s.params.fqCap
  oq_cap : s.oq.length ≤ s.params.oqCap
  /-- CFG[31:20] is 0 (R17) -/
  cfg_reserved : s.cfg.toNat < 2 ^ 20
  /-- FAULT[31:4] is 0 (R20) -/
  fault_reserved : s.fault.toNat < 2 ^ 4
  /-- every frame in FE, FQ and DE is well formed (R70) -/
  fq_frames : ∀ f, FqItem.frame f ∈ s.fq → f.Ok
  pending_frames : ∀ f ∈ s.pending, f.Ok
  de_frame_ok : ∀ f, s.frame = some f → f.Ok
  /-- FE holds a block in its four working phases and in no other (R26, R56) -/
  fe_block : s.blkLen = none ↔ s.fePhase = .idle ∨ s.fePhase = .halted
  /-- PENDING is not empty in FE_EMIT only (R26) -/
  fe_pending : s.pending ≠ [] → s.fePhase = .emit
  /-- DE holds a frame in DE_DECODE only, a record in DE_EMIT only (R29, R56) -/
  de_frame : s.frame ≠ none ↔ s.dePhase = .decode
  de_msg : s.msg ≠ none ↔ s.dePhase = .emit
  /-- in IDLE nothing is in flight (R192) -/
  idle_empty : s.runState = .idle → s.fePhase = .idle ∧ s.dePhase = .idle ∧ s.iq = [] ∧ s.fq = [] ∧ s.oq = []
  /-- the block is HALTED when DE is, and then FE is, with nothing left before OQ (R16, R137) -/
  halted_de : s.runState = .halted ↔ s.dePhase = .halted
  halted_fe : s.runState = .halted → s.fePhase = .halted ∧ s.fq = []
  /-- FE halts after a stop request only, and leaves IQ empty (R133) -/
  fe_halted : s.fePhase = .halted → (s.runState = .stopping ∨ s.runState = .halted) ∧ s.iq = []
  /-- END is in FQ exactly between FE's halt and DE's, and is FQ's last item (R133) -/
  end_mark : FqItem.endMark ∈ s.fq ↔ s.fePhase = .halted ∧ s.runState = .stopping
  end_last : ∀ q x, s.fq = q ++ [x] → FqItem.endMark ∉ q

/-! ### What DE_DECODE leaves -/

/-- The state DE_DECODE leaves where it counts c, leaves the cache `cache`, and emits `out`, or drops where that is none: everything else is as
it was, but for the one sample of `now` (R138, R147, R150). -/
def afterDecode (s : State) (c : Counter) (cache : List (Nat × CacheSlot)) (out : Option DecodedMessage) : State :=
  { s with
    counters := s.counters.add c 1, cache := cache, frame := none, msg := out,
    dePhase := if out.isSome then .emit else .idle,
    nowIn := s.nowIn.tail, draws := if s.nowIn.isEmpty then s.draws + 1 else s.draws }

/-- DE is about to decode the frame f. -/
def Decodes (s : State) (f : RawFrame) : Prop := s.dePhase = .decode ∧ s.frame = some f

/-- i decodes the frame DE holds in s and emits the record r, of a message as received, corrected, or failed (R138, R148, R149). -/
def EmitsRecord (i : Instr) (s : State) (r : DecodedMessage) : Prop :=
  ∃ f t, Decodes s f ∧ s.msg = none ∧ exec i s = .next t ∧ t.msg = some r

/-- i decodes the frame f: it is DE_DECODE, or the row of the downlink format in f's byte 0 (A9). -/
def DecodesFrame (i : Instr) (f : RawFrame) : Prop := i = .deDecode ∨ encode i = .dfByte (f.bytes.getD 0 0)

/-- i decodes the ME field of the frame f as received: it decodes the frame, or is the row of the ME type in f's byte 4 (A9). -/
def DecodesMe (i : Instr) (f : RawFrame) : Prop := DecodesFrame i f ∨ encode i = .meByte (f.bytes.getD 4 0)

/-- DF of the frame f as received: bits 7..3 of byte 0 (R138). -/
def RawFrame.df (f : RawFrame) : Nat := (f.bytes.getD 0 0).toNat / 8

/-- f is a DF17 frame of 112 bits whose syndrome is 0. -/
def RawFrame.GoodSquitter (f : RawFrame) : Prop :=
  f.len = .long ∧ f.bytes.length = 14 ∧ f.df = 17 ∧ syndrome 112 f.bytes = 0

/-- A message of 56 or 112 bits as a record's 14 bytes: a 56-bit frame fills bytes 0–6 (R84). -/
def padded (m : List Byte) : List Byte := m ++ List.replicate (14 - m.length) 0

/-- No altitude (R84). -/
def DecodedMessage.NoAltitude (r : DecodedMessage) : Prop := r.altValid = false ∧ r.alt = 0 ∧ r.altUnit = .feet

/-- No DR and UM (R84). -/
def DecodedMessage.NoDrUm (r : DecodedMessage) : Prop := r.drValid = false ∧ r.dr = 0 ∧ r.um = 0

/-- No identity (R84). -/
def DecodedMessage.NoIdentity (r : DecodedMessage) : Prop :=
  r.idValid = false ∧ r.idA = 0 ∧ r.idB = 0 ∧ r.idC = 0 ∧ r.idD = 0 ∧ r.squawk = 0

/-- No ME type (R84). -/
def DecodedMessage.NoMeHeader (r : DecodedMessage) : Prop := r.tcValid = false ∧ r.tc = 0 ∧ r.st = 0

/-- No flight string (R84); its 0 is eight NUL characters (A15). -/
def DecodedMessage.NoFlight (r : DecodedMessage) : Prop :=
  r.flightValid = false ∧ r.flight = List.replicate 8 (Char.ofNat 0)

/-- No position (R84). -/
def DecodedMessage.NoPosition (r : DecodedMessage) : Prop :=
  r.posValid = false ∧ r.cprT = 0 ∧ r.cprF = 0 ∧ r.cprLat = 0 ∧ r.cprLon = 0

/-- No velocity (R84). -/
def DecodedMessage.NoVelocity (r : DecodedMessage) : Prop :=
  r.velValid = false ∧ r.ewDir = 0 ∧ r.ew = 0 ∧ r.nsDir = 0 ∧ r.ns = 0 ∧ r.vrSrc = 0 ∧ r.vrSign = 0 ∧ r.vr = 0
    ∧ r.speed = 0 ∧ r.track = 0

/-- The checksum part of a record: its status, class, syndrome, flipped positions, address and message (R138, R159). -/
def DecodedMessage.Checked (r : DecodedMessage) (st : CrcStatus) (cls : DfClass) (x : W24) (e : List Nat) (a : W24)
    (k : AddrKind) (m : List Byte) : Prop :=
  r.status = st ∧ r.cls = cls ∧ r.syndrome = x ∧ r.errCount = e.length ∧ r.errBit0 = e[0]? ∧ r.errBit1 = e[1]?
    ∧ r.addr = a ∧ r.addrKind = k ∧ r.msg = padded m

/-- The address field AA of a message, bits 9–32: bytes 1, 2 and 3 (R75, R142). -/
def announcedAddress (m : List Byte) : W24 := m.getD 1 0 ++ m.getD 2 0 ++ m.getD 3 0

/-! ### The spec's tables and procedures, written from its text -/

/-- The loop of the T(e) procedure on its 25-bit register (R139). -/
def crcLoop : Nat → BitVec 25 → BitVec 25
  | 0, r => r
  | e + 1, r =>
    let r' := r <<< 1
    crcLoop e (if r'.getLsbD 24 then r' ^^^ 0x1FFF409 else r')

/-- T(e) by the procedure of R139: the low 24 bits of the register. -/
def crcProcedure (e : Nat) : W24 := (crcLoop e 1).extractLsb' 0 24

/-- The exclusive or of the weights of the positions E (R140). -/
def weightSum (n : Nat) : List Nat → W24
  | [] => 0
  | j0 :: e => crcT (n - 1 - j0) ^^^ weightSum n e

/-- CHARSET, the 64-character string of R77. -/
def charset : List Char := "?ABCDEFGHIJKLMNOPQRSTUVWXYZ????? ???????????????0123456789??????".toList

/-- The bits of a frame in order of transmission (R7). -/
def RawFrame.bits (f : RawFrame) : List Bool := (List.range f.len.bits).map (msgBit f.bytes)

/-- A bit as the word DEMOD writes (R69). -/
def bitWord (b : Bool) : W16 := if b then 1 else 0

/-- The preamble's 16 magnitudes, high at 0, 2, 7 and 9 (R95, R112). -/
def preambleSignal (hi lo : W16) : List W16 := [hi, lo, hi, lo, lo, lo, lo, hi, lo, hi, lo, lo, lo, lo, lo, lo]

/-- The magnitudes of bits: a 1 is high then low, a 0 low then high (R88). -/
def manchester (hi lo : W16) : List Bool → List W16
  | [] => []
  | b :: bs => (if b then [hi, lo] else [lo, hi]) ++ manchester hi lo bs

end Sys2Proof.Machine
end

