-- ==== Sys2Proof/Certificates/Slice0/Obligations.lean ====
section
/-! DEFINITION. The statements about the block, each a Prop under Obligations. The terms they use beside the machine's own stand in
Sys2Proof/Safety.lean. -/

open Sys2Proof Sys2Proof.Machine

/-- Decoding an encoded well-formed instruction gives it back. R63, R67, R71, R74, R76: no operand bit of any of the 94 constructors is
dropped. -/
def Obligations.DecodeOfEncode : Prop :=
  ∀ i : Instr, i.wellFormed = true → decode (encode i) = .ok i

/-- Each encoded form has one meaning: encoding what was decoded gives the form back. R63, R67, R71, R74, R76: the other direction of
DecodeOfEncode. -/
def Obligations.EncodeOfDecode : Prop :=
  ∀ (e : Encoded) (i : Instr), decode e = .ok i → encode i = e ∧ i.wellFormed = true

/-- The transaction decoder refuses exactly the words and payloads that are not well formed. R64: which transactions are well formed, and
that step refuses every other. -/
def Obligations.MalformedRefused : Prop :=
  ∀ (w : Txn) (payload : List Byte),
    let kind : BitVec 2 := w.extractLsb' 38 2
    let reg : BitVec 6 := w.extractLsb' 32 6
    let data : W32 := w.extractLsb' 0 32
    let wellFormed : Prop :=
      (kind = 0b10 ∨ kind = 0b11 → reg = 0) ∧ (kind = 0b00 ∨ kind = 0b11 → data = 0)
        ∧ payload.length = if kind = 0b10 then data.toNat else 0
    ((∃ i, decode (.txn w payload) = .ok i) ↔ wellFormed)
      ∧ ∀ (s : State) (rest : List Event), paramsOk s.params = true → s.agenda = .run (.txn w payload) :: rest →
          ¬ wellFormed → ∃ err, step s = .refused (.malformed err)

/-- Words written out from the encodings decode to their instructions. R63, R66, R67, R71, R74, R76: sanity words, one or more of each
format. -/
def Obligations.WordsDecode : Prop :=
  decode (.txn 0b00_000001_00000000000000000000000000000000 []) = .ok (.rdR 1)
    ∧ decode (.txn 0b01_000000_00000000000000000000000000000001 []) = .ok .wr0Start
    ∧ decode (.txn 0b01_000000_00000000000000000000000100000001 []) = .ok (.wr0Undefined 0x101)
    ∧ decode (.txn 0b01_000010_00000000000001010000010100000000 []) = .ok (.wr2Cfg 0x00050500)
    ∧ decode (.txn 0b01_000101_00000000000000000000000000000111 []) = .ok (.wrOther 5 7)
    ∧ decode (.txn 0b10_000000_00000000000000000000000000000010 [0x80, 0x82]) = .ok (.submit [0x80, 0x82])
    ∧ decode (.txn 0b11_000000_00000000000000000000000000000000 []) = .ok .pop
    ∧ decode (.pseudo 0b01_000010_00000000000011010000010100001010) = .ok (.cfgWrite 10 5 1 0 1 1)
    ∧ decode (.label 0b00010010) = .ok .feDemod
    ∧ decode (.dfByte 0b10001_101) = .ok (.df17 5)
    ∧ decode (.meByte 0b00100_000) = .ok (.meTc4 0)
    ∧ decode (.meByte 0b10011_001) = .ok .meTc19St1

/-- A step runs the decoded instruction. R15, R57: each step is one atomic step of one agent, here the one the agenda names (A1). -/
def Obligations.StepRunsDecoded : Prop :=
  ∀ (s : State) (e : Encoded) (rest : List Event) (i : Instr), paramsOk s.params = true → s.agenda = .run e :: rest →
    decode e = .ok i → step s = exec i { s with agenda := rest }

/-- With no input waiting a step takes an enabled step of FE or DE, and rests where none is enabled. R15, R214: any enabled step of any
agent may be taken next; R137, R216: at rest nothing changes. The free choice is A1. -/
def Obligations.SilentSteps : Prop :=
  (∀ (i j : Instr) (s : State), StepEnabled i s → StepEnabled j s → agentOf i = agentOf j → i = j)
    ∧ ∀ s : State, paramsOk s.params = true → s.agenda = [] →
      ((∀ i, ¬ StepEnabled i s) → step s = .next s)
        ∧ (∀ i, StepEnabled i s → (∀ j, StepEnabled j s → j = i) → step s = exec i s)
        ∧ ∀ i j, StepEnabled i s → StepEnabled j s → i ≠ j →
            step s = exec i { s with draws := s.draws + 1 } ∨ step s = exec j { s with draws := s.draws + 1 }

/-- A step that is not enabled holds: it changes nothing. R10, R127, R128: a hold changes nothing. That an unenabled step taken all the same
is an unchanged next state is A2. -/
def Obligations.HeldStepsChangeNothing : Prop :=
  ∀ (s : State) (i : Instr),
    i ∈ [.feTake, .feMag, .feDemod, .feFrame, .feEmit, .feHalt, .deTake, .deDecode, .deEmit] → ¬ StepEnabled i s →
      exec i s = .next s

/-- No instruction stops the block; step stops on malformed entries only. R201, R210: no fault stops the block; R64: malformed words are
refused. That a held step answers the unchanged next state is A2, that a hung FE_DEMOD does (R108, R229 give it no result) is the
model's choice A7, and that a label outside R71 is refused as a malformed word is A14. -/
def Obligations.NoInstructionStops : Prop :=
  (∀ (i : Instr) (s : State), ∃ t, exec i s = .next t)
    ∧ ∀ s : State, paramsOk s.params = true →
      (∃ t, step s = .next t)
        ∨ ∃ e rest err, s.agenda = .run e :: rest ∧ decode e = .error err ∧ step s = .refused (.malformed err)

/-- REG_READ returns each register's value and changes no state; other writes are ignored. R187; R188 and R196 for the ignored writes, R67
for RDSTATUS. Covers rdR, rdStatus, wrOther. That the response stands in `resp` (R65) is the model's choice A8. -/
def Obligations.RegisterPort : Prop :=
  ∀ s : State,
    (∀ r : BitVec 6, ∃ v : W32, exec (.rdR r) s = .next { s with resp := .value v }
      ∧ (r = 0 → v = 0) ∧ (r = 1 → v = s.status)
      ∧ (r = 2 → v = (s.cfg.extractLsb' 0 20).setWidth 32) ∧ (r = 3 → v = (s.fault.extractLsb' 0 4).setWidth 32)
      ∧ (r = 4 → v = s.counters.blkIn) ∧ (r = 5 → v = s.counters.blkDrop) ∧ (r = 6 → v = s.counters.blkDiscard)
      ∧ (r = 7 → v = s.counters.blkDone) ∧ (r = 8 → v = s.counters.frmOut) ∧ (r = 9 → v = s.counters.frmRej)
      ∧ (r = 10 → v = s.counters.msgDirect) ∧ (r = 11 → v = s.counters.msgFixed) ∧ (r = 12 → v = s.counters.msgAp)
      ∧ (r = 13 → v = s.counters.msgFail) ∧ (r = 14 → v = s.counters.msgOut) ∧ (15 ≤ r.toNat → v = 0))
      ∧ exec .rdStatus s = .next { s with resp := .value s.status }
      ∧ ∀ (r : BitVec 6) (v : W32), r ≠ 0 → r ≠ 2 → exec (.wrOther r v) s = .next { s with resp := .nothing }

/-- STATUS shows the run state, the busy bits and the three queue counts. R19. -/
def Obligations.StatusFields : Prop :=
  ∀ s : State, s.Inv →
    (s.status.extractLsb' 0 2 : BitVec 2) = (match s.runState with | .idle => 0 | .running => 1 | .stopping => 2 | .halted => 3)
      ∧ (s.status.getLsbD 2 = true ↔ s.fePhase ≠ .idle ∧ s.fePhase ≠ .halted)
      ∧ (s.status.getLsbD 3 = true ↔ s.dePhase ≠ .idle ∧ s.dePhase ≠ .halted)
      ∧ (s.status.extractLsb' 4 8).toNat = s.iq.length
      ∧ (s.status.extractLsb' 12 8).toNat = s.fq.length
      ∧ (s.status.extractLsb' 20 8).toNat = s.oq.length
      ∧ s.status.extractLsb' 28 4 = 0

/-- A CFG write stores v[19:0] in IDLE and faults elsewhere. R189; R67 for the expansion. Covers wr2Cfg, cfgWrite. That no response stands
in `resp` is the model's choice A8. -/
def Obligations.ConfigurationWrite : Prop :=
  ∀ s : State,
    (∀ v : W32, exec (.wr2Cfg v) s =
      .next (if s.runState = .idle then { s with cfg := (v.extractLsb' 0 20).setWidth 32, resp := .nothing }
        else { s with fault := s.fault ||| 0b100, resp := .nothing }))
      ∧ ∀ (q ae : Byte) (f1 f2 c m : BitVec 1), ∃ v : W32, exec (.cfgWrite q ae f1 f2 c m) s = exec (.wr2Cfg v) s
        ∧ v.toNat = m.toNat * 2 ^ 19 + c.toNat * 2 ^ 18 + f2.toNat * 2 ^ 17 + f1.toNat * 2 ^ 16 + ae.toNat * 2 ^ 8 + q.toNat
        ∧ cfgQuality (cfgOfWrite v) = q ∧ cfgAllowedErrors (cfgOfWrite v) = ae.toNat
        ∧ (cfgFix1 (cfgOfWrite v) = true ↔ f1 = 1) ∧ (cfgFix2 (cfgOfWrite v) = true ↔ f2 = 1)
        ∧ (cfgCrcCheck (cfgOfWrite v) = true ↔ c = 1) ∧ cfgMetric (cfgOfWrite v) = m

/-- START, STOP and undefined commands. R190, R191, R192, R207; R67 for the pseudo-transactions. Covers wr0Start, wr0Stop, wr0Undefined,
start, stop. That no response stands in `resp` is the model's choice A8. -/
def Obligations.Commands : Prop :=
  ∀ s : State,
    exec .wr0Start s = .next { s with runState := if s.runState = .idle then .running else s.runState, resp := .nothing }
      ∧ exec .start s = exec .wr0Start s
      ∧ exec .wr0Stop s = .next (match s.runState with
          | .running => { s with runState := .stopping, resp := .nothing }
          | .idle => { s with runState := .halted, fePhase := .halted, dePhase := .halted, resp := .nothing }
          | .stopping => { s with resp := .nothing }
          | .halted => { s with resp := .nothing })
      ∧ exec .stop s = exec .wr0Stop s
      ∧ (∀ v : W32, v ≠ 1 → v ≠ 2 → v ≠ 3 →
          exec (.wr0Undefined v) s = .next { s with fault := s.fault ||| 0b1000, resp := .nothing })
      ∧ ∀ v : W32, decodeRegWrite 0 v =
          if v = 1 then .wr0Start else if v = 2 then .wr0Stop else if v = 3 then .wr0Reset else .wr0Undefined v

/-- CMD RESET, its pseudo-transaction and the RST input perform one reset sequence, and power-on gives its result. R193, R217, R218, R220.
Covers wr0Reset, reset. That params, agenda, nowIn and draws stay and resp is cleared is the model's choice A17. -/
def Obligations.ResetSequence : Prop :=
  ∀ s : State,
    let t : State := {
      params := s.params, runState := .idle, cfg := 0x0005050A, fault := 0, counters := Counters.zero, iq := [],
      fq := [], oq := [], fePhase := .idle, blkLen := none, mem := [], pending := [], dePhase := .idle, frame := none,
      msg := none, cache := [], resp := .nothing, agenda := s.agenda, nowIn := s.nowIn, draws := s.draws }
    exec .wr0Reset s = .next t ∧ exec .reset s = .next t
      ∧ (∀ rest, paramsOk s.params = true → s.agenda = .rst :: rest → step s = .next { t with agenda := rest })
      ∧ (∀ k, cacheRead t.cache k = { valid := false, addr := 0, ts := 0 })
      ∧ Counters.zero = ⟨0, 0, 0, 0, 0, 0, 0, 0, 0, 0, 0⟩
      ∧ State.reset = { t with params := Params.default, agenda := [], nowIn := [], draws := 0 }

/-- The state after reset, element by element. R33. -/
def Obligations.ResetState : Prop :=
  State.reset.runState = .idle
    ∧ State.reset.cfg = 0x0005050A ∧ cfgQuality State.reset.cfg = 10 ∧ cfgAllowedErrors State.reset.cfg = 5
    ∧ cfgFix1 State.reset.cfg = true ∧ cfgFix2 State.reset.cfg = false ∧ cfgCrcCheck State.reset.cfg = true
    ∧ cfgMetric State.reset.cfg = 0
    ∧ State.reset.fault = 0
    ∧ (∀ c, State.reset.counters.get c = 0)
    ∧ State.reset.iq = [] ∧ State.reset.fq = [] ∧ State.reset.oq = []
    ∧ State.reset.fePhase = .idle ∧ State.reset.blkLen = none ∧ State.reset.pending = []
    ∧ State.reset.dePhase = .idle ∧ State.reset.frame = none ∧ State.reset.msg = none
    ∧ ∀ k, cacheRead State.reset.cache k = { valid := false, addr := 0, ts := 0 }

/-- Register reads and writes are idempotent. R53: the sentences on REG_READ and REG_WRITE. -/
def Obligations.PortIdempotent : Prop :=
  ∀ (s t : State) (r : BitVec 6),
    (∀ v : W32, exec (decodeRegWrite r v) s = .next t → exec (decodeRegWrite r v) t = .next t)
      ∧ (exec (.rdR r) s = .next t → exec (.rdR r) t = .next t ∧ t = { s with resp := t.resp })

/-- SUBMIT_BLOCK enters IQ where the block is running with room, and is dropped and counted elsewhere. R194. Covers submit. That the
response stands in `resp` (R65) is the model's choice A8. -/
def Obligations.SubmitBlock : Prop :=
  ∀ (s : State) (payload : List Byte),
    (s.runState = .running ∧ s.iq.length < s.params.iqCap →
      exec (.submit payload) s = .next { s with
        iq := s.iq ++ [payload], counters := { s.counters with blkIn := s.counters.blkIn + 1 }, resp := .accepted true })
      ∧ (¬ (s.runState = .running ∧ s.iq.length < s.params.iqCap) →
        exec (.submit payload) s = .next { s with
          counters := { s.counters with blkDrop := s.counters.blkDrop + 1 }, resp := .accepted false })

/-- POP_MSG returns and removes the head of OQ, or EMPTY. R195. Covers pop. That the response stands in `resp` (R65) is the model's choice
A8. -/
def Obligations.PopMessage : Prop :=
  ∀ s : State,
    (s.oq = [] → exec .pop s = .next { s with resp := .empty })
      ∧ ∀ m q, s.oq = m :: q → exec .pop s = .next { s with oq := q, resp := .record m }

/-- What each agent's instructions leave alone. R56, R60, R214: the frames of the three groups of instructions, all 94 constructors. -/
def Obligations.Ownership : Prop :=
  ∀ (i : Instr) (s t : State), i.wellFormed = true → exec i s = .next t →
    t.params = s.params ∧ t.agenda = s.agenda
      ∧ (agentOf i = .host → i ≠ .wr0Reset → i ≠ .reset →
          t.mem = s.mem ∧ t.blkLen = s.blkLen ∧ t.pending = s.pending ∧ t.fq = s.fq ∧ t.frame = s.frame ∧ t.msg = s.msg
            ∧ t.cache = s.cache ∧ t.nowIn = s.nowIn ∧ t.draws = s.draws
            ∧ (s.runState ≠ .idle → t.cfg = s.cfg ∧ t.fePhase = s.fePhase ∧ t.dePhase = s.dePhase)
            ∧ t.counters = { s.counters with blkIn := t.counters.blkIn, blkDrop := t.counters.blkDrop })
      ∧ (agentOf i = .fe →
          t.oq = s.oq ∧ t.dePhase = s.dePhase ∧ t.frame = s.frame ∧ t.msg = s.msg ∧ t.cache = s.cache ∧ t.cfg = s.cfg
            ∧ t.resp = s.resp ∧ t.nowIn = s.nowIn ∧ t.draws = s.draws
            ∧ t.counters = { s.counters with
                blkDiscard := t.counters.blkDiscard, blkDone := t.counters.blkDone, frmOut := t.counters.frmOut,
                frmRej := t.counters.frmRej })
      ∧ (agentOf i = .de →
          t.iq = s.iq ∧ t.fePhase = s.fePhase ∧ t.blkLen = s.blkLen ∧ t.mem = s.mem ∧ t.pending = s.pending ∧ t.cfg = s.cfg
            ∧ t.fault = s.fault ∧ t.resp = s.resp
            ∧ t.counters = { s.counters with
                msgDirect := t.counters.msgDirect, msgFixed := t.counters.msgFixed, msgAp := t.counters.msgAp,
                msgFail := t.counters.msgFail, msgOut := t.counters.msgOut })

/-- FE_TAKE: the stop sentinel, the two faults, and taking a block. R129, R203, R204 (and R206 for the order). Covers feTake. -/
def Obligations.TakeBlock : Prop :=
  ∀ (s : State) (x : List Byte) (q : List (List Byte)), s.fePhase = .idle → s.runState = .running → s.iq = x :: q →
    (x = [] → exec .feTake s = .next { s with iq := q, runState := .stopping })
      ∧ (x.length % 2 = 1 → exec .feTake s = .next { s with
          iq := q, fault := s.fault ||| 0b1, counters := { s.counters with blkDiscard := s.counters.blkDiscard + 1 } })
      ∧ (x ≠ [] → x.length % 2 = 0 → s.params.maxBlockBytes < x.length → exec .feTake s = .next { s with
          iq := q, fault := s.fault ||| 0b10, counters := { s.counters with blkDiscard := s.counters.blkDiscard + 1 } })
      ∧ (x ≠ [] → x.length % 2 = 0 → x.length ≤ s.params.maxBlockBytes →
          ∃ b : Memory, exec .feTake s = .next { s with iq := q, blkLen := some x.length, mem := b, fePhase := .mag }
            ∧ ∀ a, b.read a = if a < x.length then x.getD a 0 else s.mem.read a)

/-- FE_MAG writes each pair's magnitude over it. R90, with R46, R47, R87 and R89. Covers feMag. -/
def Obligations.Magnitudes : Prop :=
  ∀ (s : State) (n : Nat), s.fePhase = .mag → s.mem.wf → s.blkLen = some n → n % 2 = 0 →
    ∃ b : Memory, exec .feMag s = .next { s with mem := b, fePhase := .demod }
      ∧ (∀ k, k < n / 2 →
          ((b.word k).toNat : Int) = ((s.mem.read (2 * k)).toNat - 128 : Int) ^ 2 + ((s.mem.read (2 * k + 1)).toNat - 128 : Int) ^ 2)
      ∧ ∀ a, n ≤ a → b.read a = s.mem.read a

/-- FE_MAG is the lane-by-lane loop on the buffer, in any order of the lanes. R91, R50: the one-step map is the loop with the memory
primitives, in every lane order. -/
def Obligations.MagnitudeLanes : Prop :=
  ∀ (s : State) (n : Nat), s.fePhase = .mag → s.mem.wf → s.blkLen = some n → n % 2 = 0 →
    ∀ order : List Nat, order.Perm (List.range (n / 2)) →
      exec .feMag s = .next { s with
        mem := order.foldl (fun (b : Memory) k => b.setWord k (Machine.sq (b.read (2 * k)) + Machine.sq (b.read (2 * k + 1)))) s.mem,
        fePhase := .demod }

/-- The magnitude's symmetries, range and small values. R92 (the last three facts are those of R87, R228 and R110). -/
def Obligations.MagnitudeSymmetry : Prop :=
  magnitude 128 128 = 0
    ∧ ∀ i q : Byte,
      magnitude (0 - i) q = magnitude i q ∧ magnitude i (0 - q) = magnitude i q ∧ magnitude q i = magnitude i q
        ∧ (magnitude i q).toNat ≤ 32768
        ∧ (magnitude i q = 0 ↔ i = 128 ∧ q = 128)
        ∧ (magnitude i q = 1 ↔ (i = 127 ∧ q = 128) ∨ (i = 129 ∧ q = 128) ∨ (i = 128 ∧ q = 127) ∨ (i = 128 ∧ q = 129))
        ∧ magnitude i q ≠ 253 ∧ magnitude i q ≠ 254 ∧ magnitude i q ≠ 255

/-- The preamble test passes exactly the windows that R95 lists. R95: the loop equals its expansion, the weak pairwise test (R109). -/
def Obligations.PreambleTest : Prop :=
  ∀ (w : List W16) (i : Nat),
    let v : Nat → W16 := fun p => w.getD (i + p) 0
    preamble w i = true ↔
      0 < v 0 ∧ v 1 < v 0
        ∧ v 1 < v 2 ∧ v 3 < v 2 ∧ v 4 < v 2 ∧ v 5 < v 2 ∧ v 6 < v 2
        ∧ v 6 < v 7 ∧ v 8 < v 7
        ∧ v 8 < v 9 ∧ v 10 < v 9 ∧ v 11 < v 9 ∧ v 12 < v 9 ∧ v 13 < v 9 ∧ v 14 < v 9 ∧ v 15 < v 9

/-- The four tolerance policies decide as their rules say, each stricter one within the next. R100–R103 (selected as R99 says). -/
def Obligations.BitDecisions : Prop :=
  ∀ (a b c d : W16),
    (∀ x, singleManchester 0 a b c d = .bit x ↔ x = decide (d < c))
      ∧ singleManchester 0 a b c d ≠ .badSample
      ∧ (singleManchester 5 a b c d = .badSample ↔ (d < c ∧ b < a ∧ c < b) ∨ (¬ d < c ∧ ¬ b < a ∧ b < c))
      ∧ (∀ x, singleManchester 5 a b c d = .bit x → x = decide (d < c))
      ∧ (singleManchester 10 a b c d = .bit true ↔ d < c ∧ ((b < a ∧ b < c) ∨ (¬ b < a ∧ d < b)))
      ∧ (singleManchester 10 a b c d = .bit false ↔ ¬ d < c ∧ ((b < a ∧ b < d) ∨ (¬ b < a ∧ c < b)))
      ∧ ∀ quality : Byte, quality ≠ 0 → quality ≠ 5 → quality ≠ 10 →
          (singleManchester quality a b c d = .bit true ↔
            d < c ∧ ((b < a ∧ b < c ∧ d < a) ∨ (¬ b < a ∧ a < c ∧ d < b)))
            ∧ (singleManchester quality a b c d = .bit false ↔
              ¬ d < c ∧ ((b < a ∧ c < a ∧ b < d) ∨ (¬ b < a ∧ c < b ∧ a < d)))
            ∧ (∀ x, singleManchester quality a b c d = .bit x → singleManchester 10 a b c d = .bit x)
            ∧ (∀ x, singleManchester 10 a b c d = .bit x → singleManchester 5 a b c d = .bit x)

/-- One pair of a run: accepted, forced within the error budget, or ending the run. R98, R104–R107: the error budget and the output layout
of one pair. -/
def Obligations.PairOutcome : Prop :=
  ∀ (p : Params) (quality : Byte) (allowed : Nat) (r : DemodRegs) (w : List W16), r.mode = .decode → r.i2 ≤ r.i →
    r.i + 1 < w.length →
    let c := w.getD r.i 0
    let d := w.getD (r.i + 1) 0
    let written (w' : List W16) (x : Bool) : Prop := w'.length = w.length ∧ ∀ k, k < w.length →
      w'.getD k 0 = if k = r.i2 then bitWord x else if k = r.i ∨ k = r.i + 1 then p.markOver else w.getD k 0
    (∀ x, singleManchester quality r.a r.b c d = .bit x → ∃ w', written w' x
      ∧ demodMove p quality allowed r w = .more { r with a := c, b := d, i := r.i + 2, i2 := r.i2 + 1 } w')
      ∧ (singleManchester quality r.a r.b c d = .badSample → r.errors + 1 ≤ allowed → ∃ w', written w' (decide (d < c))
        ∧ demodMove p quality allowed r w =
          .more { r with a := 0, b := 0xFFFF, errors := r.errors + 1, i := r.i + 2, i2 := r.i2 + 1 } w')
      ∧ (singleManchester quality r.a r.b c d = .badSample → allowed < r.errors + 1 →
        ∃ w', (w'.length = w.length ∧ ∀ k, k < w.length → w'.getD k 0 = if k = r.i2 then p.markBad else w.getD k 0)
          ∧ demodMove p quality allowed r w = .more { r with a := c, b := d, errors := r.errors + 1, mode := .search } w')

/-- FE_DEMOD completes with the words of its pass, and every pass ends but for R108's hang. R94, R108, R229: the normative reading
terminates, and the tail reading does but for the hang R108 describes. Covers feDemod. -/
def Obligations.DemodEnds : Prop :=
  ∀ (s : State) (n : Nat), s.fePhase = .demod → s.mem.wf → s.blkLen = some n → n % 2 = 0 →
    let pass := demodPass s.params (cfgQuality s.cfg) (cfgAllowedErrors s.cfg) s.words
    (∀ w, pass = some w → w.length = n / 2
      ∧ ∃ b : Memory, exec .feDemod s = .next { s with mem := b, fePhase := .frame }
        ∧ (∀ k, k < n / 2 → b.word k = w.getD k 0)
        ∧ ∀ a, n ≤ a → b.read a = s.mem.read a)
      ∧ (s.params.tailDecode = false ∨ cfgAllowedErrors s.cfg ≠ 0 ∨ cfgQuality s.cfg ∈ [0, 5]
          ∨ s.params.markBad ∉ s.words → ∃ w, pass = some w)

/-- After a demodulation pass each word is a bit, a mark, or the word it was. R69: what the words hold after DEMOD. -/
def Obligations.PassMarks : Prop :=
  ∀ (p : Params) (quality : Byte) (allowed : Nat) (w w' : List W16), demodPass p quality allowed w = some w' →
    w'.length = w.length
      ∧ ∀ k, k < w.length →
        w'.getD k 0 = w.getD k 0 ∨ w'.getD k 0 = 0 ∨ w'.getD k 0 = 1 ∨ w'.getD k 0 = p.markBad ∨ w'.getD k 0 = p.markGo
          ∨ w'.getD k 0 = p.markOver

/-- Where the model lets FE_DEMOD hang, the pass really never ends, and FE takes no further step. R108, R229: the step may not return, and
no result is invented (A7). -/
def Obligations.HangIsReal : Prop :=
  (∀ (p : Params) (quality : Byte) (allowed : Nat) (w : List W16),
    demodPass p quality allowed w = none → ∀ fuel, demodRun p quality allowed fuel DemodRegs.init w = none)
    ∧ (∀ (p : Params) (quality : Byte) (allowed fuel more : Nat) (r : DemodRegs) (w w' : List W16),
        demodRun p quality allowed fuel r w = some w' → demodRun p quality allowed (fuel + more) r w = some w')
    ∧ ∀ s : State, s.fePhase = .demod → demodPass s.params (cfgQuality s.cfg) (cfgAllowedErrors s.cfg) s.words = none →
        exec .feDemod s = .next s ∧ ∀ i, StepEnabled i s → agentOf i = .fe → i = .feDemod

/-- A clean signal demodulates to its bits under every policy and error budget. R88, R94–R98, R107, R111, R112. -/
def Obligations.SignalDemodulates : Prop :=
  ∀ (p : Params) (quality : Byte) (allowed k : Nat) (hi lo : W16) (bits : List Bool),
    p.seedOffset = 0 ∨ p.seedOffset = 16 → p.tailDecode = false → lo < hi → bits ≠ [] →
      demodPass p quality allowed (List.replicate k lo ++ preambleSignal hi lo ++ manchester hi lo bits) =
        some (List.replicate k lo ++ List.replicate 16 p.markGo ++ bits.map bitWord
          ++ List.replicate bits.length p.markOver)

/-- The framer recovers a frame from its bits, the last bit missing or not. R113–R118, R121, R122, for either value of FRAMER_RESUME_SKIP. -/
def Obligations.FramerRecovers : Prop :=
  ∀ (skip : Nat) (quality : Byte) (f : RawFrame) (before after : List W16) (missing : Nat),
    skip ≤ 1 → f.Ok → f.bytes.getD 0 0 ≠ 0 → (∀ x ∈ before ++ after, 1 < x) → missing ≤ 1 →
    (missing = 1 → msgBit f.bytes (f.len.bits - 1) = false) →
      framePass skip quality (before ++ (f.bits.take (f.len.bits - missing)).map bitWord ++ after) =
        if quality = 0 ∧ f.df ∉ [11, 17, 18, 19] then ([], 1) else ([f], 0)

/-- From a clean signal in the block FE_DEMOD and FE_FRAME recover exactly the frame sent. R184: the decoder reproduces the injected bits;
here up to the frame, for every QUALITY and ALLOWED_ERRORS. Covers feDemod, feFrame. -/
def Obligations.ReceivePath : Prop :=
  ∀ (s : State) (n k : Nat) (hi lo : W16) (f : RawFrame),
    paramsOk s.params = true → s.params.tailDecode = false → s.fePhase = .demod → s.mem.wf → s.blkLen = some n → n % 2 = 0 →
    1 < lo → lo < hi → f.Ok → f.bytes.getD 0 0 ≠ 0 →
    s.words = List.replicate k lo ++ preambleSignal hi lo ++ manchester hi lo f.bits →
      ∃ t u : State, exec .feDemod s = .next t ∧ exec .feFrame t = .next u ∧ u.fePhase = .emit
        ∧ if cfgQuality s.cfg = 0 ∧ f.df ∉ [11, 17, 18, 19] then
            u.pending = [] ∧ u.counters = { s.counters with frmRej := s.counters.frmRej + 1 }
          else u.pending = [f] ∧ u.counters = s.counters

/-- FE_FRAME hands on well-formed frames only and writes nothing but PENDING and its counter. R113, R116, R121, R122, R70, R73. Covers
feFrame. -/
def Obligations.FrameStep : Prop :=
  ∀ s : State, s.fePhase = .frame →
    let out := framePass s.params.resumeSkip (cfgQuality s.cfg) s.words
    exec .feFrame s = .next { s with
        pending := out.1, counters := { s.counters with frmRej := s.counters.frmRej + BitVec.ofNat 32 out.2 }, fePhase := .emit }
      ∧ (∀ f ∈ out.1, f.Ok ∧ f.bytes.getD 0 0 ≠ 0 ∧ (cfgQuality s.cfg = 0 → f.df ∈ [11, 17, 18, 19]))
      ∧ (cfgQuality s.cfg ≠ 0 → out.2 = 0)

/-- Short runs and all-zero runs give no frame and no count; a candidate ends where R117 says, and the scan goes on past it. R116, R118,
R123: abandoned and discarded candidates are not counted (R208). R113, R117, R119: where a candidate ends and where the scan resumes;
the stride past an abandoned candidate is that of R113 (A28). -/
def Obligations.ShortRuns : Prop :=
  ∀ (skip : Nat) (quality : Byte), skip ≤ 1 →
    (∀ bits : List Bool,
      (bits.length < 8 → framePass skip quality (bits.map bitWord) = ([], 0))
        ∧ ((∀ b ∈ bits, b = false) → framePass skip quality (bits.map bitWord) = ([], 0))
        ∧ (8 ≤ bits.length → (∃ k, k < 8 ∧ bits.getD k false = true) →
            bits.length + 1 < (if bits.getD 0 false = true then 112 else 56) →
            framePass skip quality (bits.map bitWord) = ([], 0)))
      ∧ ∀ before rest : List W16, (∀ x ∈ before, 1 < x) → rest ≠ [] → rest.getD 0 0 ≤ 1 →
        let r := candidate rest 0
        let later := framePass skip quality (rest.drop (r.q + skip))
        (r.abandoned = true ↔ ∀ k, k < 8 → rest[k]? = some 0)
          ∧ (r.abandoned = true → r.q = 7)
          ∧ (r.abandoned = false → r.q = r.cnt ∧ r.cnt ≤ r.flen.bits ∧ (∀ k, k < r.q → rest.getD k 2 ≤ 1)
            ∧ (r.q < rest.length → r.cnt = r.flen.bits ∨ 1 < rest.getD r.q 0))
          ∧ framePass skip quality (before ++ rest) =
            if r.accepted then
              match makeFrame quality r.toFrame with
              | some f => (f :: later.1, later.2)
              | none => (later.1, later.2 + 1)
            else later

/-- FE_EMIT and FE_HALT. R130, R133. Covers feEmit, feHalt. That releasing the buffer leaves nothing of it (mem := []) is the model's choice
A13. -/
def Obligations.FrontEndQueueSteps : Prop :=
  ∀ s : State,
    (s.fePhase = .emit → s.pending = [] → exec .feEmit s = .next { s with
        counters := { s.counters with blkDone := s.counters.blkDone + 1 }, fePhase := .idle, blkLen := none, mem := [] })
      ∧ (∀ f fs, s.fePhase = .emit → s.pending = f :: fs → s.fq.length < s.params.fqCap → exec .feEmit s = .next { s with
          fq := s.fq ++ [.frame f], pending := fs, counters := { s.counters with frmOut := s.counters.frmOut + 1 } })
      ∧ (s.fePhase = .idle → s.runState = .stopping → s.fq.length < s.params.fqCap → exec .feHalt s = .next { s with
          counters := { s.counters with blkDiscard := s.counters.blkDiscard + BitVec.ofNat 32 s.iq.length }, iq := [],
          fq := s.fq ++ [.endMark], fePhase := .halted })

/-- DE_TAKE and DE_EMIT. R134, R135. Covers deTake, deEmit. That M is gone from DE afterwards (msg := none) is the model's choice A13. -/
def Obligations.DecodeEngineQueueSteps : Prop :=
  ∀ s : State,
    (∀ q, s.dePhase = .idle → s.fq = .endMark :: q → exec .deTake s = .next { s with
        fq := q, dePhase := .halted, runState := .halted })
      ∧ (∀ f q, s.dePhase = .idle → s.fq = .frame f :: q → exec .deTake s = .next { s with
          fq := q, frame := some f, dePhase := .decode })
      ∧ (∀ m, s.dePhase = .emit → s.msg = some m → s.oq.length < s.params.oqCap → exec .deEmit s = .next { s with
          oq := s.oq ++ [m], msg := none, dePhase := .idle, counters := { s.counters with msgOut := s.counters.msgOut + 1 } })

/-- The weights are the remainders that the T(e) procedure computes. R139, and the last sentence of R140's first paragraph. -/
def Obligations.Weights : Prop :=
  (∀ n : Nat, (crcWeights n).length = n ∧ ∀ j0, j0 < n → (crcWeights n).getD j0 0 = crcProcedure (n - 1 - j0))
    ∧ (∀ j0, j0 < 56 → (crcWeights 56).getD j0 0 = (crcWeights 112).getD (j0 + 56) 0)
    ∧ ∀ e, e < 24 → crcProcedure e = 1#24 <<< e

/-- The syndrome is the sum of the weights of the set bits, and flipping positions adds their weights. R140: the definition and the
linearity of the syndrome. -/
def Obligations.SyndromeLinear : Prop :=
  ∀ (len : FrameLen) (m : List Byte), m.length = len.bytes →
    let n := len.bits
    crc n m = weightSum n ((List.range (n - 24)).filter (msgBit m))
      ∧ (parity n m).toNat = msgBits m (n - 23) n
      ∧ syndrome n m = crc n m ^^^ parity n m
      ∧ (∀ j0, n - 24 ≤ j0 → j0 < n → crcT (n - 1 - j0) = 1#24 <<< (n - 1 - j0))
      ∧ ∀ e : List Nat, (∀ j0 ∈ e, j0 < n) → syndrome n (flipBits m e) = syndrome n m ^^^ weightSum n e

/-- The searches for one and for two flipped bits find exactly the pattern of the syndrome. R143, R144: the weights, and the weights of
pairs, are pairwise distinct. -/
def Obligations.SearchesExact : Prop :=
  ∀ len : FrameLen,
    let n := len.bits
    let t : Nat → W24 := fun j0 => crcT (n - 1 - j0)
    (∀ j0, j0 < n → fixOne n (t j0) = some j0)
      ∧ (∀ x j0, fixOne n x = some j0 → j0 < n ∧ t j0 = x)
      ∧ (∀ j0 j1, j0 < j1 → j1 < n →
          fixTwo n (t j0 ^^^ t j1) = some (j0, j1) ∧ fixOne n (t j0 ^^^ t j1) = none ∧ t j0 ^^^ t j1 ≠ 0)
      ∧ ∀ x j0 j1, fixTwo n x = some (j0, j1) → j0 < j1 ∧ j1 < n ∧ t j0 ^^^ t j1 = x

/-- One flipped bit of a valid message is corrected and reported. R151, first corner case. Covers deDecode, df11, df17, df18, df19. That the
DF rows are decodes of their frames is A9, that F leaves DE A13. -/
def Obligations.OneFlipCorrected : Prop :=
  ∀ (s : State) (f : RawFrame) (i : Instr) (j0 : Nat),
    f.bytes.length = f.len.bytes → syndrome f.len.bits f.bytes = 0 → j0 < f.len.bits →
    let g : RawFrame := { f with bytes := flipBit f.bytes j0 }
    Decodes s g → DecodesFrame i g → g.df ∈ [11, 17, 18, 19] → cfgFix1 s.cfg = true →
      ∃ r, exec i s = .next (afterDecode s .msgFixed s.cache (some r))
        ∧ r.Checked .fixed1 .pi (crcT (f.len.bits - 1 - j0)) [j0] (announcedAddress f.bytes) .aa f.bytes

/-- Two flipped bits of a valid message are corrected and reported. R151, third corner case. Covers deDecode, df11, df17, df18, df19. That
the DF rows are decodes of their frames is A9, that F leaves DE A13. -/
def Obligations.TwoFlipsCorrected : Prop :=
  ∀ (s : State) (f : RawFrame) (i : Instr) (j0 j1 : Nat),
    f.bytes.length = f.len.bytes → syndrome f.len.bits f.bytes = 0 → j0 < j1 → j1 < f.len.bits →
    let g : RawFrame := { f with bytes := flipBit (flipBit f.bytes j0) j1 }
    Decodes s g → DecodesFrame i g → g.df ∈ [11, 17, 18, 19] → cfgFix1 s.cfg = true → cfgFix2 s.cfg = true →
      ∃ r, exec i s = .next (afterDecode s .msgFixed s.cache (some r))
        ∧ r.Checked .fixed2 .pi (crcT (f.len.bits - 1 - j0) ^^^ crcT (f.len.bits - 1 - j1)) [j0, j1]
            (announcedAddress f.bytes) .aa f.bytes

/-- Three flipped bits of a valid message are always rejected. R151, fourth corner case. Covers deDecode, df11, df17, df18, df19. That the
DF rows are decodes of their frames is A9, that F leaves DE A13. -/
def Obligations.ThreeFlipsRejected : Prop :=
  ∀ (s : State) (f : RawFrame) (i : Instr) (j0 j1 j2 : Nat),
    f.bytes.length = f.len.bytes → syndrome f.len.bits f.bytes = 0 → j0 < j1 → j1 < j2 → j2 < f.len.bits →
    let g : RawFrame := { f with bytes := flipBit (flipBit (flipBit f.bytes j0) j1) j2 }
    Decodes s g → DecodesFrame i g → g.df ∈ [11, 17, 18, 19] →
      (cfgCrcCheck s.cfg = true → exec i s = .next (afterDecode s .msgFail s.cache none))
        ∧ (cfgCrcCheck s.cfg = false → ∃ r, exec i s = .next (afterDecode s .msgFail s.cache (some r))
          ∧ r.Checked .failed .pi (syndrome g.len.bits g.bytes) [] (announcedAddress g.bytes) .aa g.bytes)

/-- Decoding a PI frame: direct, corrected, failed, dropped. R142, with R138, R143, R144, R147, R148, R150, R156. Covers deDecode, df11,
df17, df18, df19. That the DF rows are decodes of their frames is A9, the sampled input A4, that F leaves DE A13. -/
def Obligations.PiDecode : Prop :=
  ∀ (s : State) (f : RawFrame) (i : Instr), Decodes s f → DecodesFrame i f → f.df ∈ [11, 17, 18, 19] →
    let n := f.len.bits
    let x := syndrome n f.bytes
    let t : Nat → W24 := fun j0 => crcT (n - 1 - j0)
    let noSingle : Prop := ∀ j0, j0 < n → t j0 ≠ x
    let noPair : Prop := ∀ j0 j1, j0 < j1 → j1 < n → t j0 ^^^ t j1 ≠ x
    (x = 0 → ∃ r, exec i s = .next (afterDecode s .msgDirect
          (cacheRecord s.params s.cache (announcedAddress f.bytes) s.now) (some r))
        ∧ r.Checked .directOk .pi x [] (announcedAddress f.bytes) .aa f.bytes)
      ∧ (∀ j0, cfgFix1 s.cfg = true → j0 < n → t j0 = x →
          ∃ r, exec i s = .next (afterDecode s .msgFixed s.cache (some r))
            ∧ r.Checked .fixed1 .pi x [j0] (announcedAddress (flipBit f.bytes j0)) .aa (flipBit f.bytes j0))
      ∧ (∀ j0 j1, cfgFix1 s.cfg = true → cfgFix2 s.cfg = true → j0 < j1 → j1 < n → t j0 ^^^ t j1 = x →
          ∃ r, exec i s = .next (afterDecode s .msgFixed s.cache (some r))
            ∧ r.Checked .fixed2 .pi x [j0, j1] (announcedAddress (flipBit (flipBit f.bytes j0) j1)) .aa
                (flipBit (flipBit f.bytes j0) j1))
      ∧ (x ≠ 0 → (cfgFix1 s.cfg = false ∨ noSingle ∧ (cfgFix2 s.cfg = false ∨ noPair)) →
          (cfgCrcCheck s.cfg = true → exec i s = .next (afterDecode s .msgFail s.cache none))
            ∧ (cfgCrcCheck s.cfg = false → ∃ r, exec i s = .next (afterDecode s .msgFail s.cache (some r))
              ∧ r.Checked .failed .pi x [] (announcedAddress f.bytes) .aa f.bytes))

/-- Decoding an AP frame: recovered through the cache, or failed. R145, with R138, R147, R148, R150, R157; the DF rows are A9, the sampled
input A4, that F leaves DE A13. Covers deDecode, df0, df4, df5, df16, df20, df21, df24, df25, df26, df27, df28, df29, df30, df31. -/
def Obligations.ApDecode : Prop :=
  ∀ (s : State) (f : RawFrame) (i : Instr), Decodes s f → DecodesFrame i f → (f.df ∈ [0, 4, 5, 16, 20, 21] ∨ 24 ≤ f.df) →
    let x := syndrome f.len.bits f.bytes
    let e := cacheRead s.cache (cacheSlot s.params x)
    let seen : Prop := e.valid = true ∧ e.addr = x ∧ (s.now - e.ts).toNat ≤ s.params.ttl
    (seen → ∃ r, exec i s = .next (afterDecode s .msgAp s.cache (some r))
        ∧ r.Checked .apRecovered .ap x [] x .apRecovered f.bytes)
      ∧ (¬ seen → cfgCrcCheck s.cfg = true → exec i s = .next (afterDecode s .msgFail s.cache none))
      ∧ (¬ seen → cfgCrcCheck s.cfg = false → ∃ r, exec i s = .next (afterDecode s .msgFail s.cache (some r))
        ∧ r.Checked .failed .ap x [] x .apCandidate f.bytes)

/-- Decoding a frame of an unassigned format. R146, with R138, R147, R148, R150; the DF rows are A9, the sampled input A4, that F leaves DE
A13. Covers deDecode, df1, df2, df3, df6, df7, df8, df9, df10, df12, df13, df14, df15, df22, df23. -/
def Obligations.OtherDecode : Prop :=
  ∀ (s : State) (f : RawFrame) (i : Instr), Decodes s f → DecodesFrame i f →
    f.df ∈ [1, 2, 3, 6, 7, 8, 9, 10, 12, 13, 14, 15, 22, 23] →
    let x := syndrome f.len.bits f.bytes
    (x = 0 → ∃ r, exec i s = .next (afterDecode s .msgDirect s.cache (some r))
        ∧ r.Checked .directOk .other 0 [] 0 .none f.bytes)
      ∧ (x ≠ 0 → cfgCrcCheck s.cfg = true → exec i s = .next (afterDecode s .msgFail s.cache none))
      ∧ (x ≠ 0 → cfgCrcCheck s.cfg = false → ∃ r, exec i s = .next (afterDecode s .msgFail s.cache (some r))
        ∧ r.Checked .failed .other x [] 0 .none f.bytes)

/-- The rows of the downlink formats and of the ME types are DE_DECODE of the frames they name. R12, R74, R76, R141, R161, R168: what the
rows select (A9). All 32 DF and 39 ME constructors. -/
def Obligations.RowsAreDecode : Prop :=
  ∀ (s : State) (i : Instr) (b : Byte),
    let decodesMe : RawFrame → Prop := fun f => (validate s f s.now).emitted s.cfg = true
      ∧ msgBits (validate s f s.now).m 1 5 = 17 ∧ (validate s f s.now).m.getD 4 0 = b
    (encode i = .dfByte b →
      (∀ f, Decodes s f → f.bytes.getD 0 0 = b → exec i s = exec .deDecode s)
        ∧ ((∀ f, Decodes s f → f.bytes.getD 0 0 ≠ b) → exec i s = .next s))
      ∧ (encode i = .meByte b →
        (∀ f, Decodes s f → decodesMe f → exec i s = exec .deDecode s)
          ∧ ((∀ f, Decodes s f → ¬ decodesMe f) → exec i s = .next s))

/-- A DF17 identification message decodes to its eight characters. R168, R169, with the string of R77; R148, R149 for which message is
decoded; the DF and ME rows are A9. Covers meTc1, meTc2, meTc3, meTc4. -/
def Obligations.Identification : Prop :=
  let typed : Byte → Prop := fun b => 1 ≤ b.toNat / 8 ∧ b.toNat / 8 ≤ 4
  let fields : DecodedMessage → Prop := fun r =>
    r.df = 17 ∧ r.tcValid = true ∧ r.tc.toNat = (r.msg.getD 4 0).toNat / 8 ∧ r.st.toNat = (r.msg.getD 4 0).toNat % 8
      ∧ r.flightValid = true ∧ r.flight.length = 8
      ∧ (∀ q, q < 8 → r.flight[q]? = charset[msgBits r.msg (41 + 6 * q) (46 + 6 * q)]?)
      ∧ r.NoAltitude ∧ r.NoPosition ∧ r.NoVelocity ∧ r.NoDrUm ∧ r.NoIdentity
  (∀ (s : State) (f : RawFrame) (i : Instr), Decodes s f → f.GoodSquitter → DecodesMe i f → typed (f.bytes.getD 4 0) →
      ∃ r, exec i s = .next (afterDecode s .msgDirect
            (cacheRecord s.params s.cache (announcedAddress f.bytes) s.now) (some r))
        ∧ r.Checked .directOk .pi 0 [] (announcedAddress f.bytes) .aa f.bytes ∧ fields r)
    ∧ ∀ (s : State) (i : Instr) (r : DecodedMessage), EmitsRecord i s r → r.df = 17 → typed (r.msg.getD 4 0) → fields r

/-- A DF17 airborne position message decodes to its altitude and raw CPR fields. R168, R170, R171; R148, R149 for which message is decoded;
that an absent flight string is eight NUL characters is the model's choice A15, the DF and ME rows are A9. Covers meTc9 to meTc18:
meTc9, meTc10, meTc11, meTc12, meTc13, meTc14, meTc15, meTc16, meTc17, meTc18. -/
def Obligations.AirbornePosition : Prop :=
  let typed : Byte → Prop := fun b => 9 ≤ b.toNat / 8 ∧ b.toNat / 8 ≤ 18
  let fields : DecodedMessage → Prop := fun r =>
    r.df = 17 ∧ r.tcValid = true ∧ r.tc.toNat = (r.msg.getD 4 0).toNat / 8 ∧ r.st.toNat = (r.msg.getD 4 0).toNat % 8
      ∧ r.altUnit = .feet
      ∧ (msgBits r.msg 48 48 = 1 →
          r.altValid = true ∧ r.alt = 25 * ((msgBits r.msg 41 47 * 16 + msgBits r.msg 49 52 : Nat) : Int) - 1000)
      ∧ (msgBits r.msg 48 48 = 0 → r.altValid = false ∧ r.alt = 0)
      ∧ r.posValid = true ∧ r.cprT.toNat = msgBits r.msg 53 53 ∧ r.cprF.toNat = msgBits r.msg 54 54
      ∧ r.cprLat.toNat = msgBits r.msg 55 71 ∧ r.cprLon.toNat = msgBits r.msg 72 88
      ∧ r.NoFlight ∧ r.NoVelocity ∧ r.NoDrUm ∧ r.NoIdentity
  (∀ (s : State) (f : RawFrame) (i : Instr), Decodes s f → f.GoodSquitter → DecodesMe i f → typed (f.bytes.getD 4 0) →
      ∃ r, exec i s = .next (afterDecode s .msgDirect
            (cacheRecord s.params s.cache (announcedAddress f.bytes) s.now) (some r))
        ∧ r.Checked .directOk .pi 0 [] (announcedAddress f.bytes) .aa f.bytes ∧ fields r)
    ∧ ∀ (s : State) (i : Instr) (r : DecodedMessage), EmitsRecord i s r → r.df = 17 → typed (r.msg.getD 4 0) → fields r

/-- A DF17 velocity message decodes to its raw components, speed and track. R168, R174, R177, R179, R181, R182; R148, R149 for which message
is decoded; TRACK_FN is the model's trackFn, free outside its named properties (A5); that an absent flight string is eight NUL
characters is the model's choice A15, the DF and ME rows are A9. Covers meTc19St1, meTc19St2. -/
def Obligations.VelocityMessage : Prop :=
  let typed : Byte → Prop := fun b => b.toNat / 8 = 19 ∧ (b.toNat % 8 = 1 ∨ b.toNat % 8 = 2)
  let fields : DecodedMessage → Prop := fun r =>
    r.df = 17 ∧ r.tcValid = true ∧ r.tc.toNat = (r.msg.getD 4 0).toNat / 8 ∧ r.st.toNat = (r.msg.getD 4 0).toNat % 8
      ∧ r.velValid = true ∧ r.ewDir.toNat = msgBits r.msg 46 46 ∧ r.ew.toNat = msgBits r.msg 47 56
      ∧ r.nsDir.toNat = msgBits r.msg 57 57 ∧ r.ns.toNat = msgBits r.msg 58 67
      ∧ r.vrSrc.toNat = msgBits r.msg 68 68 ∧ r.vrSign.toNat = msgBits r.msg 69 69 ∧ r.vr.toNat = msgBits r.msg 70 78
      ∧ r.speed = Nat.sqrt (msgBits r.msg 47 56 ^ 2 + msgBits r.msg 58 67 ^ 2)
      ∧ (r.speed = 0 → r.track = 0)
      ∧ (r.speed ≠ 0 → r.track =
          trackFn (if msgBits r.msg 46 46 = 1 then -(msgBits r.msg 47 56 : Int) else msgBits r.msg 47 56)
            (if msgBits r.msg 57 57 = 1 then -(msgBits r.msg 58 67 : Int) else msgBits r.msg 58 67))
      ∧ r.NoAltitude ∧ r.NoPosition ∧ r.NoFlight ∧ r.NoDrUm ∧ r.NoIdentity
  (∀ (s : State) (f : RawFrame) (i : Instr), Decodes s f → f.GoodSquitter → DecodesMe i f → typed (f.bytes.getD 4 0) →
      ∃ r, exec i s = .next (afterDecode s .msgDirect
            (cacheRecord s.params s.cache (announcedAddress f.bytes) s.now) (some r))
        ∧ r.Checked .directOk .pi 0 [] (announcedAddress f.bytes) .aa f.bytes ∧ fields r)
    ∧ ∀ (s : State) (i : Instr) (r : DecodedMessage), EmitsRecord i s r → r.df = 17 → typed (r.msg.getD 4 0) → fields r

/-- A DF17 message of any other ME type decodes to its type and subtype only. R168, R178, R82; R148, R149 for which message is decoded; that
an absent flight string is eight NUL characters is the model's choice A15, the DF and ME rows are A9. Covers meTc0, meTc5, meTc6, meTc7,
meTc8, meTc19St0, meTc19St3, meTc19St4, meTc19St5, meTc19St6, meTc19St7, meTc20 to meTc31: meTc20, meTc21, meTc22, meTc23, meTc24,
meTc25, meTc26, meTc27, meTc28, meTc29, meTc30, meTc31. -/
def Obligations.HeaderOnlyMessage : Prop :=
  let typed : Byte → Prop := fun b => b.toNat / 8 = 0 ∨ (5 ≤ b.toNat / 8 ∧ b.toNat / 8 ≤ 8) ∨ 20 ≤ b.toNat / 8
    ∨ (b.toNat / 8 = 19 ∧ b.toNat % 8 ≠ 1 ∧ b.toNat % 8 ≠ 2)
  let fields : DecodedMessage → Prop := fun r =>
    r.df = 17 ∧ r.tcValid = true ∧ r.tc.toNat = (r.msg.getD 4 0).toNat / 8 ∧ r.st.toNat = (r.msg.getD 4 0).toNat % 8
      ∧ r.NoAltitude ∧ r.NoPosition ∧ r.NoVelocity ∧ r.NoFlight ∧ r.NoDrUm ∧ r.NoIdentity
  (∀ (s : State) (f : RawFrame) (i : Instr), Decodes s f → f.GoodSquitter → DecodesMe i f → typed (f.bytes.getD 4 0) →
      ∃ r, exec i s = .next (afterDecode s .msgDirect
            (cacheRecord s.params s.cache (announcedAddress f.bytes) s.now) (some r))
        ∧ r.Checked .directOk .pi 0 [] (announcedAddress f.bytes) .aa f.bytes ∧ fields r)
    ∧ ∀ (s : State) (i : Instr) (r : DecodedMessage), EmitsRecord i s r → r.df = 17 → typed (r.msg.getD 4 0) → fields r

/-- The common fields, altitude, identity and DR/UM of every emitted record. R163, R165, R167, with R159, R161, R162, R173, R185; that an
absent flight string is eight NUL characters is the model's choice A15, the DF rows are A9. -/
def Obligations.RecordFields : Prop :=
  ∀ (s t : State) (f : RawFrame) (i : Instr) (r : DecodedMessage), Decodes s f → DecodesFrame i f → exec i s = .next t →
    t.msg = some r →
    let m := r.msg
    let df := msgBits m 1 5
    let bit : Nat → Nat := fun j => msgBits m j j
    r.df.toNat = df ∧ r.f3.toNat = msgBits m 6 8 ∧ r.unitPref = cfgMetric s.cfg ∧ r.nBits = f.len
      ∧ (df ∈ [0, 4, 16, 20] →
          (r.altUnit = if bit 26 = 1 then .meters else .feet)
            ∧ (bit 26 = 0 ∧ bit 28 = 1 → r.altValid = true
              ∧ r.alt = 25 * ((msgBits m 20 25 * 32 + bit 27 * 16 + msgBits m 29 32 : Nat) : Int) - 1000
              ∧ -1000 ≤ r.alt ∧ r.alt ≤ 50175)
            ∧ (¬ (bit 26 = 0 ∧ bit 28 = 1) → r.altValid = false ∧ r.alt = 0))
      ∧ (df ∉ [0, 4, 16, 17, 20] → r.NoAltitude)
      ∧ (df ∈ [4, 5, 20, 21] → r.drValid = true ∧ r.dr.toNat = msgBits m 9 13 ∧ r.um.toNat = msgBits m 14 19)
      ∧ (df ∉ [4, 5, 20, 21] → r.NoDrUm)
      ∧ (df ∈ [5, 21] → r.idValid = true
          ∧ r.idA.toNat = 4 * bit 25 + 2 * bit 23 + bit 21 ∧ r.idB.toNat = 4 * bit 31 + 2 * bit 29 + bit 27
          ∧ r.idC.toNat = 4 * bit 24 + 2 * bit 22 + bit 20 ∧ r.idD.toNat = 4 * bit 32 + 2 * bit 30 + bit 28
          ∧ r.squawk = 1000 * r.idA.toNat + 100 * r.idB.toNat + 10 * r.idC.toNat + r.idD.toNat)
      ∧ (df ∉ [5, 21] → r.NoIdentity)
      ∧ (df ≠ 17 → r.NoMeHeader ∧ r.NoFlight ∧ r.NoPosition ∧ r.NoVelocity)

/-- Every emitted record keeps the guards and ranges of R84. R84, R85 (A15 for the flight string's 0; A5 for the track's free values, whose
range holds for every value of them). Covers every constructor that decodes: deDecode, the DF rows and the ME rows. -/
def Obligations.RecordGuards : Prop :=
  ∀ (s t : State) (f : RawFrame) (i : Instr) (r : DecodedMessage), agentOf i = .de → i ≠ .deEmit → i ≠ .deTake → Decodes s f →
    f.Ok → s.msg = none → exec i s = .next t → t.msg = some r →
    (r.drValid = false → r.NoDrUm) ∧ (r.altValid = false → r.alt = 0) ∧ (r.idValid = false → r.NoIdentity)
      ∧ (r.tcValid = false → r.NoMeHeader ∧ r.NoFlight ∧ r.NoPosition ∧ r.NoVelocity)
      ∧ (r.flightValid = false → r.NoFlight) ∧ (r.posValid = false → r.NoPosition) ∧ (r.velValid = false → r.NoVelocity)
      ∧ r.errCount ≤ 2 ∧ (r.errBit0 ≠ none ↔ 1 ≤ r.errCount) ∧ (r.errBit1 ≠ none ↔ r.errCount = 2)
      ∧ (∀ j, r.errBit0 = some j ∨ r.errBit1 = some j → j < r.nBits.bits)
      ∧ (r.status = .fixed1 ↔ r.errCount = 1) ∧ (r.status = .fixed2 ↔ r.errCount = 2)
      ∧ (r.addrKind = .none → r.addr = 0)
      ∧ r.msg.length = 14 ∧ r.flight.length = 8
      ∧ -1000 ≤ r.alt ∧ r.alt ≤ 50175 ∧ r.squawk ≤ 7777 ∧ r.speed ≤ 1446 ∧ r.track ≤ 359

/-- Speed is the integer root, track keeps its range and its named properties. R181, R182 and the named properties of R183 (A5). -/
def Obligations.SpeedTrack : Prop :=
  ∀ (ewDir nsDir : BitVec 1) (ew ns : BitVec 10),
    let v := ew.toNat ^ 2 + ns.toNat ^ 2
    speedOf ew ns ^ 2 ≤ v ∧ v < (speedOf ew ns + 1) ^ 2 ∧ speedOf ew ns ≤ 1446
      ∧ trackOf ewDir ew nsDir ns ≤ 359
      ∧ (ew = 0 → ns = 0 → trackOf ewDir ew nsDir ns = 0)
      ∧ (ew ≠ 0 → ns = 0 → trackOf ewDir ew nsDir ns = if ewDir = 0 then 90 else 270)
      ∧ (ew = 0 → ns ≠ 0 → trackOf ewDir ew nsDir ns = if nsDir = 0 then 0 else 180)
      ∧ trackOf 1 9 1 160 = 184

/-- CacheRecord writes its one slot, CacheSeen answers by slot, address and age. R153, R154, R156, R157, for whatever ICAO_HASH the
parameters give (A6). That the slots are a canonical list (sparseWf) is the model's choice A21. -/
def Obligations.CacheOperations : Prop :=
  ∀ (p : Params) (c : List (Nat × CacheSlot)) (a : W24) (t : W32) (k : Nat), p.cacheLen = 2 ^ k → sparseWf CacheSlot.empty c →
    let c' := cacheRecord p c a t
    cacheSlot p a < p.cacheLen ∧ cacheSlot p a = (icaoHash p a).toNat &&& (p.cacheLen - 1)
      ∧ sparseWf CacheSlot.empty c'
      ∧ cacheRead c' (cacheSlot p a) = { valid := true, addr := a, ts := t }
      ∧ (∀ j, j ≠ cacheSlot p a → cacheRead c' j = cacheRead c j)
      ∧ (∀ (b : W24) (u : W32), cacheSeen p c b u = true ↔
          (cacheRead c (cacheSlot p b)).valid = true ∧ (cacheRead c (cacheSlot p b)).addr = b
            ∧ (u - (cacheRead c (cacheSlot p b)).ts).toNat ≤ p.ttl)
      ∧ (∀ u : W32, cacheSeen p c' a u = true ↔ (u - t).toNat ≤ p.ttl)
      ∧ (∀ (b : W24) (u : W32), b ≠ a → cacheSlot p b = cacheSlot p a → cacheSeen p c' b u = false)
      ∧ ∀ (b : W24) (u : W32), cacheSlot p b ≠ cacheSlot p a → cacheSeen p c' b u = cacheSeen p c b u

/-- The cache changes only by reset and by a directly valid PI frame. R156, R62: the one caller of CacheRecord; R30: the sampled time is
`now` of the state the decode runs in (A4), after a free choice where the schedule made one (A1). The DF and ME rows are A9. -/
def Obligations.CacheChanges : Prop :=
  ∀ s t : State, step s = .next t →
    t.cache = s.cache ∨ NextResets s
      ∨ ∃ (i : Instr) (u : State) (f : RawFrame), RunsIn i u s ∧ agentOf i = .de ∧ exec i u = .next t ∧ Decodes u f
          ∧ DecodesMe i f ∧ f.df ∈ [11, 17, 18, 19] ∧ syndrome f.len.bits f.bytes = 0
          ∧ t.cache = cacheRecord u.params s.cache (announcedAddress f.bytes) u.now

/-- Every step keeps the invariant of the block. The invariant State.Inv (Sys2Proof/Safety.lean), each field with its rule. -/
def Obligations.InvariantKept : Prop :=
  ∀ s t : State, s.Inv → step s = .next t → t.Inv

/-- The state after reset has the invariant. R33: with InvariantKept, every state a run reaches has the invariant. -/
def Obligations.InvariantAtReset : Prop :=
  State.reset.Inv

/-- The run state changes only as the table of R16 says; HALTED is left by reset only. R16 (and R137). -/
def Obligations.RunStateTransitions : Prop :=
  ∀ s t : State, s.Inv → step s = .next t →
    (t.runState ≠ s.runState →
      (t.runState = .idle ∧ NextResets s)
        ∨ (s.runState = .idle ∧ t.runState = .running ∧ (NextRuns .wr0Start s ∨ NextRuns .start s))
        ∨ (s.runState = .idle ∧ t.runState = .halted ∧ (NextRuns .wr0Stop s ∨ NextRuns .stop s))
        ∨ (s.runState = .running ∧ t.runState = .stopping
          ∧ (NextRuns .wr0Stop s ∨ NextRuns .stop s ∨ s.iq = [] :: t.iq))
        ∨ (s.runState = .stopping ∧ t.runState = .halted ∧ t.fePhase = .halted ∧ t.dePhase = .halted))
      ∧ (NextResets s → t.runState = .idle)
      ∧ (s.runState = .halted → ∀ i, ¬ StepEnabled i s)

/-- The queues are FIFOs, and what moves between them is what the owner held. R125, R58, R56. -/
def Obligations.QueuesAreFifo : Prop :=
  ∀ s t : State, step s = .next t → ¬ NextResets s →
    (t.iq = s.iq ∨ (∃ x, t.iq = s.iq ++ [x]) ∨ (∃ x, s.iq = x :: t.iq)
        ∨ (t.iq = [] ∧ t.fePhase = .halted ∧ t.fq = s.fq ++ [.endMark]))
      ∧ (t.fq = s.fq
        ∨ (∃ f, t.fq = s.fq ++ [.frame f] ∧ s.pending = f :: t.pending)
        ∨ (t.fq = s.fq ++ [.endMark] ∧ t.fePhase = .halted)
        ∨ (∃ f, s.fq = .frame f :: t.fq ∧ t.frame = some f)
        ∨ (s.fq = .endMark :: t.fq ∧ t.runState = .halted))
      ∧ (t.oq = s.oq
        ∨ (∃ m, t.oq = s.oq ++ [m] ∧ s.msg = some m ∧ t.msg = none)
        ∨ (∃ m, s.oq = m :: t.oq ∧ t.resp = .record m))

/-- FAULT bits are set only by their four causes, one in a step, and cleared only by reset. R20, R201, R202, R206. -/
def Obligations.FaultsSticky : Prop :=
  ∀ s t : State, step s = .next t → ¬ NextResets s →
    t.fault = s.fault
      ∨ (t.fault = s.fault ||| 0b1 ∧ ∃ x, s.iq = x :: t.iq ∧ x.length % 2 = 1)
      ∨ (t.fault = s.fault ||| 0b10 ∧ ∃ x, s.iq = x :: t.iq ∧ x.length % 2 = 0 ∧ s.params.maxBlockBytes < x.length)
      ∨ (t.fault = s.fault ||| 0b100 ∧ s.runState ≠ .idle
        ∧ ((∃ v, NextRuns (.wr2Cfg v) s) ∨ ∃ q ae f1 f2 c m, NextRuns (.cfgWrite q ae f1 f2 c m) s))
      ∨ (t.fault = s.fault ||| 0b1000 ∧ ∃ v, v ≠ 1 ∧ v ≠ 2 ∧ v ≠ 3 ∧ NextRuns (.wr0Undefined v) s)

/-- ICAO_HASH is the default of R155, or any function into the slots. R6, R154, R155. That the hash is given as a list of exceptions to the
default is the model's choice A6. -/
def Obligations.HashIsParameter : Prop :=
  ∀ p : Params,
    (p.hash = [] → ∀ a : W24,
      let h0 : W32 := a.setWidth 32
      let h1 := ((h0 >>> 16) ^^^ h0) * 0x045D9F3B
      let h2 := ((h1 >>> 16) ^^^ h1) * 0x045D9F3B
      icaoHash p a = (h2 >>> 16) ^^^ h2)
      ∧ (p.hash = [] → p.cacheLen = 1024 →
          cacheSlot p 0x000000 = 0 ∧ cacheSlot p 0x000001 = 935 ∧ cacheSlot p 0x4840D6 = 518 ∧ cacheSlot p 0x40621D = 449
            ∧ cacheSlot p 0x485020 = 504 ∧ cacheSlot p 0xABCDEF = 675 ∧ cacheSlot p 0xFFFFFF = 265)
      ∧ (p.cacheLen ≤ 2 ^ 24 → ∀ f : W24 → Nat, (∀ a, f a < p.cacheLen) →
          ∃ table : List (W24 × W32), ∀ a, cacheSlot { p with hash := table } a = f a)
end

