-- ==== Sys2Proof/Laws/Sparse.lean ====
section
/-! SUPPORT. Sparse storage: what a write does to a read, and that a write keeps the canonical form. -/

namespace Sys2Proof.Machine

variable {α : Type} {d : α}

@[simp] theorem sparseRead_nil (d : α) (k : Nat) : sparseRead d [] k = d := rfl

theorem sparseRead_cons (d : α) (a k : Nat) (v : α) (l : List (Nat × α)) :
    sparseRead d ((a, v) :: l) k = if k = a then v else sparseRead d l k := rfl

/-- A key below every listed key is not listed. -/
theorem sparseRead_below {l : List (Nat × α)} {k : Nat} (h : ∀ p ∈ l, k < p.1) : sparseRead d l k = d := by
  induction l with
  | nil => rfl
  | cons p l ih =>
    obtain ⟨a, v⟩ := p
    have ha : k < a := h _ List.mem_cons_self
    simp [sparseRead, Nat.ne_of_lt ha, ih fun q hq => h q (List.mem_cons_of_mem _ hq)]

variable [DecidableEq α]

theorem sparseWf_nil (d : α) : sparseWf d [] := ⟨List.Pairwise.nil, by simp⟩

theorem sparseWf_cons {a : Nat} {v : α} {l : List (Nat × α)} :
    sparseWf d ((a, v) :: l) ↔ (∀ p ∈ l, a < p.1) ∧ v ≠ d ∧ sparseWf d l := by
  simp only [sparseWf, List.pairwise_cons, List.mem_cons, forall_eq_or_imp]
  tauto

/-- Every key of a written list is the key written or was listed before. -/
theorem mem_sparseWrite {l : List (Nat × α)} {k : Nat} {v : α} {p : Nat × α} (h : p ∈ sparseWrite d l k v) :
    p = (k, v) ∨ p ∈ l := by
  induction l with
  | nil => simp only [sparseWrite] at h; split at h <;> simp_all
  | cons q l ih =>
    obtain ⟨a, w⟩ := q
    simp only [sparseWrite] at h
    split at h
    · split at h <;> simp_all
    · split at h
      · split at h
        · exact .inr (List.mem_cons_of_mem _ h)
        · rcases List.mem_cons.1 h with h | h
          · exact .inl h
          · exact .inr (List.mem_cons_of_mem _ h)
      · rcases List.mem_cons.1 h with h | h
        · exact .inr (h ▸ List.mem_cons_self)
        · exact (ih h).imp id (List.mem_cons_of_mem _)

/-- A write keeps the canonical form. -/
theorem sparseWrite_wf {l : List (Nat × α)} (h : sparseWf d l) (k : Nat) (v : α) : sparseWf d (sparseWrite d l k v) := by
  induction l with
  | nil => simp only [sparseWrite]; split <;> simp_all [sparseWf]
  | cons p l ih =>
    obtain ⟨a, w⟩ := p
    obtain ⟨hlt, hw, hl⟩ := sparseWf_cons.1 h
    simp only [sparseWrite]
    split
    next hk =>
      split
      · exact h
      next hv =>
        refine sparseWf_cons.2 ⟨?_, hv, h⟩
        intro q hq
        rcases List.mem_cons.1 hq with rfl | hq
        · exact hk
        · exact Nat.lt_trans hk (hlt q hq)
    next hk =>
      split
      next hka =>
        split
        · exact hl
        next hv => exact sparseWf_cons.2 ⟨by simpa [hka] using hlt, hv, hl⟩
      next hka =>
        refine sparseWf_cons.2 ⟨?_, hw, ih hl⟩
        intro q hq
        rcases mem_sparseWrite hq with rfl | hq
        · simp only; omega
        · exact hlt q hq

/-- A read after a write: the value at the key written, and every other key as before. -/
theorem sparseRead_write {l : List (Nat × α)} (h : sparseWf d l) (k j : Nat) (v : α) :
    sparseRead d (sparseWrite d l k v) j = if j = k then v else sparseRead d l j := by
  induction l with
  | nil =>
    simp only [sparseWrite]
    split
    next hv => simp [hv]
    · simp [sparseRead]
  | cons p l ih =>
    obtain ⟨a, w⟩ := p
    obtain ⟨hlt, -, hl⟩ := sparseWf_cons.1 h
    have hlow : ∀ i, i ≤ a → sparseRead d l i = d := fun i hi => sparseRead_below fun q hq => Nat.lt_of_le_of_lt hi (hlt q hq)
    simp only [sparseWrite]
    split
    next hk =>
      split
      next hv =>
        split
        next hj => subst hj; simp [sparseRead, Nat.ne_of_lt hk, hlow _ (Nat.le_of_lt hk), hv]
        · rfl
      · simp [sparseRead]
    next hk =>
      split
      next hka =>
        subst hka
        split
        next hv =>
          split
          next hj => subst hj; simp [hlow _ (Nat.le_refl _), hv]
          next hj => simp [sparseRead, hj]
        · simp only [sparseRead]; split <;> rfl
      next hka =>
        simp only [sparseRead, ih hl]
        split
        next hj => subst hj; simp [Ne.symm hka]
        · rfl

@[simp] theorem sparseRead_write_same {l : List (Nat × α)} (h : sparseWf d l) (k : Nat) (v : α) :
    sparseRead d (sparseWrite d l k v) k = v := by simp [sparseRead_write h]

theorem sparseRead_write_of_ne {l : List (Nat × α)} (h : sparseWf d l) {k j : Nat} (hj : j ≠ k) (v : α) :
    sparseRead d (sparseWrite d l k v) j = sparseRead d l j := by simp [sparseRead_write h, hj]

/-- Canonical lists that read the same are the same list. -/
theorem sparse_ext {l l' : List (Nat × α)} (h : sparseWf d l) (h' : sparseWf d l')
    (he : ∀ k, sparseRead d l k = sparseRead d l' k) : l = l' := by
  induction l generalizing l' with
  | nil =>
    cases l' with
    | nil => rfl
    | cons p l' =>
      obtain ⟨a, v⟩ := p
      have := he a
      simp [sparseRead] at this
      exact absurd this.symm (sparseWf_cons.1 h').2.1
  | cons p l ih =>
    obtain ⟨a, v⟩ := p
    obtain ⟨hlt, hv, hl⟩ := sparseWf_cons.1 h
    cases l' with
    | nil =>
      have := he a
      simp [sparseRead] at this
      exact absurd this hv
    | cons q l' =>
      obtain ⟨b, w⟩ := q
      obtain ⟨hlt', hw, hl'⟩ := sparseWf_cons.1 h'
      have hab : a = b := by
        rcases Nat.lt_trichotomy a b with hab | hab | hab
        · have := he a
          rw [sparseRead_cons, if_pos rfl, sparseRead_below (l := (b, w) :: l')] at this
          · exact absurd this hv
          · intro q hq
            rcases List.mem_cons.1 hq with rfl | hq
            · exact hab
            · exact Nat.lt_trans hab (hlt' q hq)
        · exact hab
        · have := he b
          rw [sparseRead_cons d b, if_pos rfl, sparseRead_below (l := (a, v) :: l)] at this
          · exact absurd this.symm hw
          · intro q hq
            rcases List.mem_cons.1 hq with rfl | hq
            · exact hab
            · exact Nat.lt_trans hab (hlt q hq)
      subst hab
      have hvw : v = w := by simpa [sparseRead] using he a
      subst hvw
      congr 1
      refine ih hl hl' fun k => ?_
      have := he k
      simp only [sparseRead] at this
      by_cases hk : k = a
      · subst hk
        rw [sparseRead_below hlt, sparseRead_below hlt']
      · simpa [hk] using this

end Sys2Proof.Machine
end

