-- ==== Sys2Proof/Laws/State.lean ====
section
/-! SUPPORT. One lemma per field per named update of State, so that no proof unfolds a record update. -/

namespace Sys2Proof.Machine

variable (s : State)

/-! ### count -/

@[simp] theorem count_params (c : Counter) (k : Nat) : (s.count c k).params = s.params := rfl
@[simp] theorem count_runState (c : Counter) (k : Nat) : (s.count c k).runState = s.runState := rfl
@[simp] theorem count_cfg (c : Counter) (k : Nat) : (s.count c k).cfg = s.cfg := rfl
@[simp] theorem count_fault (c : Counter) (k : Nat) : (s.count c k).fault = s.fault := rfl
@[simp] theorem count_counters (c : Counter) (k : Nat) : (s.count c k).counters = s.counters.add c k := rfl
@[simp] theorem count_iq (c : Counter) (k : Nat) : (s.count c k).iq = s.iq := rfl
@[simp] theorem count_fq (c : Counter) (k : Nat) : (s.count c k).fq = s.fq := rfl
@[simp] theorem count_oq (c : Counter) (k : Nat) : (s.count c k).oq = s.oq := rfl
@[simp] theorem count_fePhase (c : Counter) (k : Nat) : (s.count c k).fePhase = s.fePhase := rfl
@[simp] theorem count_blkLen (c : Counter) (k : Nat) : (s.count c k).blkLen = s.blkLen := rfl
@[simp] theorem count_mem (c : Counter) (k : Nat) : (s.count c k).mem = s.mem := rfl
@[simp] theorem count_pending (c : Counter) (k : Nat) : (s.count c k).pending = s.pending := rfl
@[simp] theorem count_dePhase (c : Counter) (k : Nat) : (s.count c k).dePhase = s.dePhase := rfl
@[simp] theorem count_frame (c : Counter) (k : Nat) : (s.count c k).frame = s.frame := rfl
@[simp] theorem count_msg (c : Counter) (k : Nat) : (s.count c k).msg = s.msg := rfl
@[simp] theorem count_cache (c : Counter) (k : Nat) : (s.count c k).cache = s.cache := rfl
@[simp] theorem count_resp (c : Counter) (k : Nat) : (s.count c k).resp = s.resp := rfl
@[simp] theorem count_agenda (c : Counter) (k : Nat) : (s.count c k).agenda = s.agenda := rfl
@[simp] theorem count_nowIn (c : Counter) (k : Nat) : (s.count c k).nowIn = s.nowIn := rfl
@[simp] theorem count_draws (c : Counter) (k : Nat) : (s.count c k).draws = s.draws := rfl

/-! ### raise -/

@[simp] theorem raise_params (c : FaultCode) : (s.raise c).params = s.params := rfl
@[simp] theorem raise_runState (c : FaultCode) : (s.raise c).runState = s.runState := rfl
@[simp] theorem raise_cfg (c : FaultCode) : (s.raise c).cfg = s.cfg := rfl
@[simp] theorem raise_fault (c : FaultCode) : (s.raise c).fault = s.fault ||| (1#32 <<< c.bit) := rfl
@[simp] theorem raise_counters (c : FaultCode) : (s.raise c).counters = s.counters := rfl
@[simp] theorem raise_iq (c : FaultCode) : (s.raise c).iq = s.iq := rfl
@[simp] theorem raise_fq (c : FaultCode) : (s.raise c).fq = s.fq := rfl
@[simp] theorem raise_oq (c : FaultCode) : (s.raise c).oq = s.oq := rfl
@[simp] theorem raise_fePhase (c : FaultCode) : (s.raise c).fePhase = s.fePhase := rfl
@[simp] theorem raise_blkLen (c : FaultCode) : (s.raise c).blkLen = s.blkLen := rfl
@[simp] theorem raise_mem (c : FaultCode) : (s.raise c).mem = s.mem := rfl
@[simp] theorem raise_pending (c : FaultCode) : (s.raise c).pending = s.pending := rfl
@[simp] theorem raise_dePhase (c : FaultCode) : (s.raise c).dePhase = s.dePhase := rfl
@[simp] theorem raise_frame (c : FaultCode) : (s.raise c).frame = s.frame := rfl
@[simp] theorem raise_msg (c : FaultCode) : (s.raise c).msg = s.msg := rfl
@[simp] theorem raise_cache (c : FaultCode) : (s.raise c).cache = s.cache := rfl
@[simp] theorem raise_resp (c : FaultCode) : (s.raise c).resp = s.resp := rfl
@[simp] theorem raise_agenda (c : FaultCode) : (s.raise c).agenda = s.agenda := rfl
@[simp] theorem raise_nowIn (c : FaultCode) : (s.raise c).nowIn = s.nowIn := rfl
@[simp] theorem raise_draws (c : FaultCode) : (s.raise c).draws = s.draws := rfl

/-! ### respond -/

@[simp] theorem respond_params (r : Response) : (s.respond r).params = s.params := rfl
@[simp] theorem respond_runState (r : Response) : (s.respond r).runState = s.runState := rfl
@[simp] theorem respond_cfg (r : Response) : (s.respond r).cfg = s.cfg := rfl
@[simp] theorem respond_fault (r : Response) : (s.respond r).fault = s.fault := rfl
@[simp] theorem respond_counters (r : Response) : (s.respond r).counters = s.counters := rfl
@[simp] theorem respond_iq (r : Response) : (s.respond r).iq = s.iq := rfl
@[simp] theorem respond_fq (r : Response) : (s.respond r).fq = s.fq := rfl
@[simp] theorem respond_oq (r : Response) : (s.respond r).oq = s.oq := rfl
@[simp] theorem respond_fePhase (r : Response) : (s.respond r).fePhase = s.fePhase := rfl
@[simp] theorem respond_blkLen (r : Response) : (s.respond r).blkLen = s.blkLen := rfl
@[simp] theorem respond_mem (r : Response) : (s.respond r).mem = s.mem := rfl
@[simp] theorem respond_pending (r : Response) : (s.respond r).pending = s.pending := rfl
@[simp] theorem respond_dePhase (r : Response) : (s.respond r).dePhase = s.dePhase := rfl
@[simp] theorem respond_frame (r : Response) : (s.respond r).frame = s.frame := rfl
@[simp] theorem respond_msg (r : Response) : (s.respond r).msg = s.msg := rfl
@[simp] theorem respond_cache (r : Response) : (s.respond r).cache = s.cache := rfl
@[simp] theorem respond_resp (r : Response) : (s.respond r).resp = r := rfl
@[simp] theorem respond_agenda (r : Response) : (s.respond r).agenda = s.agenda := rfl
@[simp] theorem respond_nowIn (r : Response) : (s.respond r).nowIn = s.nowIn := rfl
@[simp] theorem respond_draws (r : Response) : (s.respond r).draws = s.draws := rfl

/-! ### setWords -/

@[simp] theorem setWords_params (ws : List W16) : (s.setWords ws).params = s.params := rfl
@[simp] theorem setWords_runState (ws : List W16) : (s.setWords ws).runState = s.runState := rfl
@[simp] theorem setWords_cfg (ws : List W16) : (s.setWords ws).cfg = s.cfg := rfl
@[simp] theorem setWords_fault (ws : List W16) : (s.setWords ws).fault = s.fault := rfl
@[simp] theorem setWords_counters (ws : List W16) : (s.setWords ws).counters = s.counters := rfl
@[simp] theorem setWords_iq (ws : List W16) : (s.setWords ws).iq = s.iq := rfl
@[simp] theorem setWords_fq (ws : List W16) : (s.setWords ws).fq = s.fq := rfl
@[simp] theorem setWords_oq (ws : List W16) : (s.setWords ws).oq = s.oq := rfl
@[simp] theorem setWords_fePhase (ws : List W16) : (s.setWords ws).fePhase = s.fePhase := rfl
@[simp] theorem setWords_blkLen (ws : List W16) : (s.setWords ws).blkLen = s.blkLen := rfl
@[simp] theorem setWords_mem (ws : List W16) : (s.setWords ws).mem = s.mem.store (bytesOfWords ws) := rfl
@[simp] theorem setWords_pending (ws : List W16) : (s.setWords ws).pending = s.pending := rfl
@[simp] theorem setWords_dePhase (ws : List W16) : (s.setWords ws).dePhase = s.dePhase := rfl
@[simp] theorem setWords_frame (ws : List W16) : (s.setWords ws).frame = s.frame := rfl
@[simp] theorem setWords_msg (ws : List W16) : (s.setWords ws).msg = s.msg := rfl
@[simp] theorem setWords_cache (ws : List W16) : (s.setWords ws).cache = s.cache := rfl
@[simp] theorem setWords_resp (ws : List W16) : (s.setWords ws).resp = s.resp := rfl
@[simp] theorem setWords_agenda (ws : List W16) : (s.setWords ws).agenda = s.agenda := rfl
@[simp] theorem setWords_nowIn (ws : List W16) : (s.setWords ws).nowIn = s.nowIn := rfl
@[simp] theorem setWords_draws (ws : List W16) : (s.setWords ws).draws = s.draws := rfl

/-! ### resetBlock -/

@[simp] theorem resetBlock_params : (s.resetBlock).params = s.params := rfl
@[simp] theorem resetBlock_runState : (s.resetBlock).runState = State.reset.runState := rfl
@[simp] theorem resetBlock_cfg : (s.resetBlock).cfg = State.reset.cfg := rfl
@[simp] theorem resetBlock_fault : (s.resetBlock).fault = State.reset.fault := rfl
@[simp] theorem resetBlock_counters : (s.resetBlock).counters = State.reset.counters := rfl
@[simp] theorem resetBlock_iq : (s.resetBlock).iq = State.reset.iq := rfl
@[simp] theorem resetBlock_fq : (s.resetBlock).fq = State.reset.fq := rfl
@[simp] theorem resetBlock_oq : (s.resetBlock).oq = State.reset.oq := rfl
@[simp] theorem resetBlock_fePhase : (s.resetBlock).fePhase = State.reset.fePhase := rfl
@[simp] theorem resetBlock_blkLen : (s.resetBlock).blkLen = State.reset.blkLen := rfl
@[simp] theorem resetBlock_mem : (s.resetBlock).mem = State.reset.mem := rfl
@[simp] theorem resetBlock_pending : (s.resetBlock).pending = State.reset.pending := rfl
@[simp] theorem resetBlock_dePhase : (s.resetBlock).dePhase = State.reset.dePhase := rfl
@[simp] theorem resetBlock_frame : (s.resetBlock).frame = State.reset.frame := rfl
@[simp] theorem resetBlock_msg : (s.resetBlock).msg = State.reset.msg := rfl
@[simp] theorem resetBlock_cache : (s.resetBlock).cache = State.reset.cache := rfl
@[simp] theorem resetBlock_resp : (s.resetBlock).resp = State.reset.resp := rfl
@[simp] theorem resetBlock_agenda : (s.resetBlock).agenda = s.agenda := rfl
@[simp] theorem resetBlock_nowIn : (s.resetBlock).nowIn = s.nowIn := rfl
@[simp] theorem resetBlock_draws : (s.resetBlock).draws = s.draws := rfl

/-! ### afterNow -/

@[simp] theorem afterNow_params : s.afterNow.params = s.params := by unfold State.afterNow; split <;> rfl
@[simp] theorem afterNow_runState : s.afterNow.runState = s.runState := by unfold State.afterNow; split <;> rfl
@[simp] theorem afterNow_cfg : s.afterNow.cfg = s.cfg := by unfold State.afterNow; split <;> rfl
@[simp] theorem afterNow_fault : s.afterNow.fault = s.fault := by unfold State.afterNow; split <;> rfl
@[simp] theorem afterNow_counters : s.afterNow.counters = s.counters := by unfold State.afterNow; split <;> rfl
@[simp] theorem afterNow_iq : s.afterNow.iq = s.iq := by unfold State.afterNow; split <;> rfl
@[simp] theorem afterNow_fq : s.afterNow.fq = s.fq := by unfold State.afterNow; split <;> rfl
@[simp] theorem afterNow_oq : s.afterNow.oq = s.oq := by unfold State.afterNow; split <;> rfl
@[simp] theorem afterNow_fePhase : s.afterNow.fePhase = s.fePhase := by unfold State.afterNow; split <;> rfl
@[simp] theorem afterNow_blkLen : s.afterNow.blkLen = s.blkLen := by unfold State.afterNow; split <;> rfl
@[simp] theorem afterNow_mem : s.afterNow.mem = s.mem := by unfold State.afterNow; split <;> rfl
@[simp] theorem afterNow_pending : s.afterNow.pending = s.pending := by unfold State.afterNow; split <;> rfl
@[simp] theorem afterNow_dePhase : s.afterNow.dePhase = s.dePhase := by unfold State.afterNow; split <;> rfl
@[simp] theorem afterNow_frame : s.afterNow.frame = s.frame := by unfold State.afterNow; split <;> rfl
@[simp] theorem afterNow_msg : s.afterNow.msg = s.msg := by unfold State.afterNow; split <;> rfl
@[simp] theorem afterNow_cache : s.afterNow.cache = s.cache := by unfold State.afterNow; split <;> rfl
@[simp] theorem afterNow_resp : s.afterNow.resp = s.resp := by unfold State.afterNow; split <;> rfl
@[simp] theorem afterNow_agenda : s.afterNow.agenda = s.agenda := by unfold State.afterNow; split <;> rfl

/-! ### The values after reset (R33) -/

@[simp] theorem reset_params : State.reset.params = Params.default := rfl
@[simp] theorem reset_runState : State.reset.runState = .idle := rfl
@[simp] theorem reset_cfg : State.reset.cfg = 0x0005050A := rfl
@[simp] theorem reset_fault : State.reset.fault = 0 := rfl
@[simp] theorem reset_counters : State.reset.counters = Counters.zero := rfl
@[simp] theorem reset_iq : State.reset.iq = [] := rfl
@[simp] theorem reset_fq : State.reset.fq = [] := rfl
@[simp] theorem reset_oq : State.reset.oq = [] := rfl
@[simp] theorem reset_fePhase : State.reset.fePhase = .idle := rfl
@[simp] theorem reset_blkLen : State.reset.blkLen = none := rfl
@[simp] theorem reset_mem : State.reset.mem = [] := rfl
@[simp] theorem reset_pending : State.reset.pending = [] := rfl
@[simp] theorem reset_dePhase : State.reset.dePhase = .idle := rfl
@[simp] theorem reset_frame : State.reset.frame = none := rfl
@[simp] theorem reset_msg : State.reset.msg = none := rfl
@[simp] theorem reset_cache : State.reset.cache = [] := rfl
@[simp] theorem reset_resp : State.reset.resp = .nothing := rfl
@[simp] theorem reset_agenda : State.reset.agenda = [] := rfl
@[simp] theorem reset_nowIn : State.reset.nowIn = [] := rfl
@[simp] theorem reset_draws : State.reset.draws = 0 := rfl

/-! ### Counters -/

/-- Adding to one counter changes that counter alone, modulo 2^32 (R21). -/
@[simp] theorem counters_get_add (n : Counters) (c c' : Counter) (k : Nat) :
    (n.add c k).get c' = if c' = c then n.get c' + BitVec.ofNat 32 k else n.get c' := by
  cases c <;> cases c' <;> rfl

/-- Counters with the same values are the same. -/
theorem counters_ext {n n' : Counters} (h : ∀ c, n.get c = n'.get c) : n = n' := by
  cases n; cases n'
  simp only [Counters.mk.injEq]
  exact ⟨h .blkIn, h .blkDrop, h .blkDiscard, h .blkDone, h .frmOut, h .frmRej, h .msgDirect, h .msgFixed, h .msgAp, h .msgFail,
    h .msgOut⟩

@[simp] theorem counters_zero_get (c : Counter) : Counters.zero.get c = 0 := by cases c <;> rfl

end Sys2Proof.Machine
end

