-- ==== Sys2Proof/Laws/Ops.lean ====
section
/-! SUPPORT. One lemma per shared operation that says once everything it can do, and the inversion of `step`. -/

namespace Sys2Proof.Machine

/-! ### Holding -/

/-- A step under its enabling condition always answers a next state: its effect, or the state as it was. -/
theorem whenEnabled_next {e : Bool} {f : State → State} {s t : State} :
    whenEnabled e f s = .next t ↔ t = if e then f s else s := by
  simp only [whenEnabled, Host.Outcome.next.injEq]
  exact eq_comm

@[simp] theorem whenEnabled_true (f : State → State) (s : State) : whenEnabled true f s = .next (f s) := rfl

@[simp] theorem whenEnabled_false (f : State → State) (s : State) : whenEnabled false f s = .next s := rfl

/-! ### The front end's operations -/

/-- What taking the block x off IQ can do, in the order of the checks (R129, R206). -/
theorem takeBlock_cases (x : List Byte) (s : State) :
    (x = [] ∧ takeBlock x s = { s with runState := .stopping })
      ∨ (x.length % 2 = 1 ∧ takeBlock x s = (s.raise .oddLen).count .blkDiscard 1)
      ∨ (x ≠ [] ∧ x.length % 2 = 0 ∧ s.params.maxBlockBytes < x.length
        ∧ takeBlock x s = (s.raise .oversize).count .blkDiscard 1)
      ∨ (x ≠ [] ∧ x.length % 2 = 0 ∧ x.length ≤ s.params.maxBlockBytes
        ∧ takeBlock x s = { s with mem := s.mem.store x, blkLen := some x.length, fePhase := .mag }) := by
  unfold takeBlock
  by_cases h0 : x.length = 0
  · exact .inl ⟨List.eq_nil_of_length_eq_zero h0, if_pos h0⟩
  · have hx : x ≠ [] := fun h => h0 (by simp [h])
    rw [if_neg h0]
    by_cases h1 : x.length % 2 = 1
    · exact .inr (.inl ⟨h1, if_pos h1⟩)
    · have h1' : x.length % 2 = 0 := by omega
      rw [if_neg h1]
      by_cases h2 : s.params.maxBlockBytes < x.length
      · exact .inr (.inr (.inl ⟨hx, h1', h2, if_pos h2⟩))
      · exact .inr (.inr (.inr ⟨hx, h1', Nat.le_of_not_lt h2, if_neg h2⟩))

/-- FE_TAKE of a queue with a head is the taking of that head. -/
theorem feTake_cons {s : State} {x : List Byte} {q : List (List Byte)} (h : s.iq = x :: q) :
    feTake s = takeBlock x { s with iq := q } := by
  unfold feTake
  rw [h]

/-- FE_DEMOD either ends the pass, with its words in the block, or leaves the state as it was. -/
theorem feDemod_cases (s : State) :
    (∃ w, demodPass s.params (cfgQuality s.cfg) (cfgAllowedErrors s.cfg) s.words = some w
        ∧ feDemod s = { s.setWords w with fePhase := .frame })
      ∨ (demodPass s.params (cfgQuality s.cfg) (cfgAllowedErrors s.cfg) s.words = none ∧ feDemod s = s) := by
  unfold feDemod
  cases h : demodPass s.params (cfgQuality s.cfg) (cfgAllowedErrors s.cfg) s.words with
  | some w => exact .inl ⟨w, rfl, rfl⟩
  | none => exact .inr ⟨rfl, rfl⟩

/-- FE_EMIT finishes the block, or moves PENDING's head to FQ's tail. -/
theorem feEmit_cases (s : State) :
    (s.pending = [] ∧ feEmit s = { s.count .blkDone 1 with fePhase := .idle, blkLen := none, mem := [] })
      ∨ ∃ f fs, s.pending = f :: fs
        ∧ feEmit s = { s.count .frmOut 1 with fq := s.fq ++ [.frame f], pending := fs } := by
  unfold feEmit
  cases h : s.pending with
  | nil => exact .inl ⟨rfl, rfl⟩
  | cons f fs => exact .inr ⟨f, fs, rfl, rfl⟩

/-! ### The decode engine's operations -/

/-- DE_TAKE halts on END and takes a frame in hand. -/
theorem deTake_cases {s : State} (h : s.fq ≠ []) :
    (∃ q, s.fq = .endMark :: q ∧ deTake s = { s with fq := q, dePhase := .halted, runState := .halted })
      ∨ ∃ f q, s.fq = .frame f :: q ∧ deTake s = { s with fq := q, frame := some f, dePhase := .decode } := by
  unfold deTake
  cases hq : s.fq with
  | nil => exact absurd hq h
  | cons x q =>
    cases x with
    | endMark => exact .inl ⟨q, rfl, rfl⟩
    | frame f => exact .inr ⟨f, q, rfl, rfl⟩

/-- DE_EMIT moves M to OQ's tail; without M it leaves the state as it was. -/
theorem deEmit_cases (s : State) :
    (s.msg = none ∧ deEmit s = s)
      ∨ ∃ m, s.msg = some m ∧ deEmit s = { s.count .msgOut 1 with oq := s.oq ++ [m], msg := none, dePhase := .idle } := by
  unfold deEmit
  cases h : s.msg with
  | none => exact .inl ⟨rfl, rfl⟩
  | some m => exact .inr ⟨m, rfl, rfl⟩

/-- A decode counts its status, keeps the verdict's cache, and emits the record or drops it (R147, R150). -/
theorem finishDecode_cases (s : State) (v : Verdict) (m : DecodedMessage) :
    (v.emitted s.cfg = true ∧ finishDecode s v m =
        { s.count (statusCounter v.status) 1 with cache := v.cache, frame := none, msg := some m, dePhase := .emit })
      ∨ (v.emitted s.cfg = false ∧ finishDecode s v m =
        { s.count (statusCounter v.status) 1 with cache := v.cache, frame := none, msg := none, dePhase := .idle }) := by
  unfold finishDecode
  cases h : v.emitted s.cfg with
  | true => exact .inl ⟨rfl, rfl⟩
  | false => exact .inr ⟨rfl, rfl⟩

/-- A message is dropped where it failed and CRC_CHECK_EN is on (R148). -/
theorem emitted_eq_false {v : Verdict} {cfg : W32} :
    v.emitted cfg = false ↔ v.status = .failed ∧ cfgCrcCheck cfg = true := by
  simp [Verdict.emitted]

theorem frameInHand_eq_some {s : State} {f : RawFrame} :
    s.frameInHand = some f ↔ s.dePhase = .decode ∧ s.frame = some f := by
  simp [State.frameInHand]

/-- DE_DECODE decodes the frame in hand, and without one leaves the state as it was. -/
theorem execDeDecode_cases (s : State) :
    (∃ f, s.frameInHand = some f ∧ execDeDecode s = .next (decodeWith validate f s))
      ∨ (s.frameInHand = none ∧ execDeDecode s = .next s) := by
  unfold execDeDecode
  cases h : s.frameInHand with
  | some f => exact .inl ⟨f, rfl, rfl⟩
  | none => exact .inr ⟨rfl, rfl⟩

/-- A downlink-format row decodes a frame in hand whose byte 0 is the row's, and otherwise leaves the state as it was (A9). -/
theorem runFormat_cases (df : BitVec 5) (f3 : BitVec 3) (validation : State → RawFrame → W32 → Verdict) (s : State) :
    (∃ f, s.frameInHand = some f ∧ f.bytes.getD 0 0 = (df ++ f3 : BitVec 8)
        ∧ runFormat df f3 validation s = .next (decodeWith validation f s))
      ∨ ((∀ f, s.frameInHand = some f → f.bytes.getD 0 0 ≠ (df ++ f3 : BitVec 8))
        ∧ runFormat df f3 validation s = .next s) := by
  unfold runFormat
  cases h : s.frameInHand with
  | none => exact .inr ⟨by simp, rfl⟩
  | some f =>
    by_cases hb : f.bytes.getD 0 0 = (df ++ f3 : BitVec 8)
    · exact .inl ⟨f, rfl, hb, by simp only [if_pos hb]⟩
    · refine .inr ⟨fun g hg => ?_, by simp only [if_neg hb]⟩
      cases hg
      exact hb

/-- An ME row decodes a frame in hand whose verdict leads to the row's ME type, and otherwise leaves the state as it was (A9). -/
theorem runMe_cases (tc : BitVec 5) (st : BitVec 3) (fields : List Byte → DecodedMessage → DecodedMessage) (s : State) :
    (∃ f, s.frameInHand = some f ∧ (validate s f s.now).decodesMe s.cfg (tc ++ st : BitVec 8) = true
        ∧ runMe tc st fields s = .next (finishDecode s.afterNow (validate s f s.now)
            (fields (validate s f s.now).m (meHeader (validate s f s.now).m (commonFields s.cfg (validate s f s.now))))))
      ∨ ((∀ f, s.frameInHand = some f → (validate s f s.now).decodesMe s.cfg (tc ++ st : BitVec 8) = false)
        ∧ runMe tc st fields s = .next s) := by
  unfold runMe
  cases h : s.frameInHand with
  | none => exact .inr ⟨by simp, rfl⟩
  | some f =>
    cases hv : (validate s f s.now).decodesMe s.cfg (tc ++ st : BitVec 8) with
    | true => exact .inl ⟨f, rfl, hv, by simp only [hv, if_true]⟩
    | false =>
      refine .inr ⟨fun g hg => ?_, by simp only [hv, Bool.false_eq_true, if_false]⟩
      cases hg
      exact hv

/-- The cache a validation hands on is the one it was given, but after the direct check of a PI frame (R156). -/
theorem validate_cache (s : State) (f : RawFrame) (t : W32) :
    (validate s f t).cache = s.cache
      ∨ (dfClass (msgDf f.bytes) = .pi ∧ (validate s f t).status = .directOk
        ∧ (validate s f t).cache = cacheRecord s.params s.cache (validate s f t).addr t) := by
  unfold validate
  cases hc : dfClass (msgDf f.bytes) with
  | ap => exact .inl rfl
  | other => exact .inl rfl
  | pi =>
    simp only [validatePi]
    cases h : (correctPi s.cfg f.len.bits (syndrome f.len.bits f.bytes)).1 <;> simp

/-- What correction can answer for a syndrome x (R142–R144). -/
theorem correctPi_cases (cfg : W32) (n : Nat) (x : W24) :
    (x = 0 ∧ correctPi cfg n x = (.directOk, []))
      ∨ (x ≠ 0 ∧ cfgFix1 cfg = true ∧ ∃ j0, fixOne n x = some j0 ∧ correctPi cfg n x = (.fixed1, [j0]))
      ∨ (x ≠ 0 ∧ cfgFix1 cfg = true ∧ cfgFix2 cfg = true ∧ fixOne n x = none
        ∧ ∃ j0 j1, fixTwo n x = some (j0, j1) ∧ correctPi cfg n x = (.fixed2, [j0, j1]))
      ∨ (x ≠ 0 ∧ (cfgFix1 cfg = false ∨ fixOne n x = none ∧ (cfgFix2 cfg = false ∨ fixTwo n x = none))
        ∧ correctPi cfg n x = (.failed, [])) := by
  by_cases hx : x = 0
  · exact .inl ⟨hx, by simp [correctPi, hx]⟩
  · cases h1 : cfgFix1 cfg with
    | false => exact .inr (.inr (.inr ⟨hx, .inl rfl, by rw [correctPi, if_neg hx]; simp [h1]⟩))
    | true =>
      cases hj : fixOne n x with
      | some j0 => exact .inr (.inl ⟨hx, rfl, j0, rfl, by rw [correctPi, if_neg hx]; simp [h1, hj]⟩)
      | none =>
        cases h2 : cfgFix2 cfg with
        | false => exact .inr (.inr (.inr ⟨hx, .inr ⟨rfl, .inl rfl⟩, by rw [correctPi, if_neg hx]; simp [h1, hj, h2]⟩))
        | true =>
          cases hp : fixTwo n x with
          | some e =>
            exact .inr (.inr (.inl ⟨hx, rfl, rfl, rfl, e.1, e.2, rfl, by rw [correctPi, if_neg hx]; simp [h1, hj, h2, hp]⟩))
          | none => exact .inr (.inr (.inr ⟨hx, .inr ⟨rfl, .inr rfl⟩, by rw [correctPi, if_neg hx]; simp [h1, hj, h2, hp]⟩))

/-! ### The host port's operations -/

/-- What a CMD write can do (R190–R193). -/
theorem command_cases (v : W32) (s : State) :
    (v = 1 ∧ command v s = cmdStart s) ∨ (v = 2 ∧ command v s = cmdStop s) ∨ (v = 3 ∧ command v s = s.resetBlock)
      ∨ (v ≠ 1 ∧ v ≠ 2 ∧ v ≠ 3 ∧ command v s = s.raise .badCmd) := by
  unfold command
  by_cases h1 : v = 1
  · exact .inl ⟨h1, if_pos h1⟩
  · rw [if_neg h1]
    by_cases h2 : v = 2
    · exact .inr (.inl ⟨h2, if_pos h2⟩)
    · rw [if_neg h2]
      by_cases h3 : v = 3
      · exact .inr (.inr (.inl ⟨h3, if_pos h3⟩))
      · exact .inr (.inr (.inr ⟨h1, h2, h3, if_neg h3⟩))

/-- What a CFG write can do (R189). -/
theorem cfgWrite_cases (v : W32) (s : State) :
    (s.runState = .idle ∧ cfgWrite v s = { s with cfg := cfgOfWrite v })
      ∨ (s.runState ≠ .idle ∧ cfgWrite v s = s.raise .cfgWhileRunning) := by
  unfold cfgWrite
  by_cases h : s.runState = .idle
  · exact .inl ⟨h, if_pos h⟩
  · exact .inr ⟨h, if_neg h⟩

/-- What a register write can do (R188). -/
theorem regWrite_cases (r : BitVec 6) (v : W32) (s : State) :
    (r = 0 ∧ regWrite r v s = command v s) ∨ (r = 2 ∧ regWrite r v s = cfgWrite v s)
      ∨ (r ≠ 0 ∧ r ≠ 2 ∧ regWrite r v s = s) := by
  unfold regWrite
  by_cases h0 : r = 0
  · exact .inl ⟨h0, if_pos h0⟩
  · rw [if_neg h0]
    by_cases h2 : r = 2
    · exact .inr (.inl ⟨h2, if_pos h2⟩)
    · exact .inr (.inr ⟨h0, h2, if_neg h2⟩)

/-- What a SUBMIT_BLOCK can do (R194). -/
theorem submitBlock_cases (payload : List Byte) (s : State) :
    (s.runState = .running ∧ s.iq.length < s.params.iqCap
        ∧ submitBlock payload s = ({ s.count .blkIn 1 with iq := s.iq ++ [payload] }).respond (.accepted true))
      ∨ (¬ (s.runState = .running ∧ s.iq.length < s.params.iqCap)
        ∧ submitBlock payload s = (s.count .blkDrop 1).respond (.accepted false)) := by
  unfold submitBlock State.iqRoom
  by_cases h : s.runState = .running ∧ s.iq.length < s.params.iqCap
  · exact .inl ⟨h.1, h.2, by simp [h.1, h.2, enqueue]⟩
  · refine .inr ⟨h, if_neg ?_⟩
    simpa using h

/-- What a POP_MSG can do (R195). -/
theorem popMsg_cases (s : State) :
    (s.oq = [] ∧ popMsg s = s.respond .empty)
      ∨ ∃ m q, s.oq = m :: q ∧ popMsg s = ({ s with oq := q }).respond (.record m) := by
  unfold popMsg
  cases h : s.oq with
  | nil => exact .inl ⟨rfl, rfl⟩
  | cons m q => exact .inr ⟨m, q, rfl, rfl⟩

/-! ### The cache -/

/-- ICAO_HASH where no other value is given for any address. -/
@[simp] theorem icaoHash_of_nil {p : Params} (h : p.hash = []) (a : W24) : icaoHash p a = icaoHashDefault a := by
  simp [icaoHash, h]

/-- ICAO_HASH at an address whose value is given. -/
theorem icaoHash_of_lookup {p : Params} {a : W24} {v : W32} (h : p.hash.lookup a = some v) : icaoHash p a = v := by
  simp [icaoHash, h]

/-- Recording keeps the canonical form. -/
theorem cacheRecord_wf {p : Params} {c : List (Nat × CacheSlot)} (h : sparseWf CacheSlot.empty c) (a : W24) (t : W32) :
    sparseWf CacheSlot.empty (cacheRecord p c a t) := sparseWrite_wf h _ _

/-- What a slot holds after a record. -/
theorem cacheRead_record {p : Params} {c : List (Nat × CacheSlot)} (h : sparseWf CacheSlot.empty c) (a : W24) (t : W32)
    (k : Nat) :
    cacheRead (cacheRecord p c a t) k
      = if k = cacheSlot p a then { valid := true, addr := a, ts := t } else cacheRead c k :=
  sparseRead_write h _ _ _

/-! ### The weights -/

theorem crcPowers_length (k : Nat) (r : W24) (acc : List W24) : (crcPowers k r acc).length = k + acc.length := by
  induction k generalizing r acc with
  | zero => simp [crcPowers]
  | succ k ih => simp [crcPowers, ih]; omega

@[simp] theorem crcWeights_length (n : Nat) : (crcWeights n).length = n := by simp [crcWeights, crcPowers_length]

/-! ### Inversion of step -/

/-- Everything a step that answers a next state can have done. -/
theorem step_cases {s t : State} (h : step s = .next t) :
    paramsOk s.params = true ∧
      ((∃ e rest i, s.agenda = .run e :: rest ∧ decode e = .ok i ∧ exec i { s with agenda := rest } = .next t)
        ∨ (∃ rest, s.agenda = .rst :: rest ∧ t = ({ s with agenda := rest }).resetBlock)
        ∨ (s.agenda = [] ∧ ∃ i, (feNext s = some i ∧ deNext s = none ∨ feNext s = none ∧ deNext s = some i)
            ∧ exec i s = .next t)
        ∨ (s.agenda = [] ∧ ∃ i j k, feNext s = some i ∧ deNext s = some j ∧ (k = i ∨ k = j)
            ∧ exec k { s with draws := s.draws + 1 } = .next t)
        ∨ (s.agenda = [] ∧ feNext s = none ∧ deNext s = none ∧ t = s)) := by
  unfold step at h
  split at h
  next hp =>
    refine ⟨hp, ?_⟩
    unfold fetch at h
    rcases ha : s.agenda with _ | ⟨_ | _, rest⟩
    · rw [ha] at h
      rcases hf : feNext s with _ | i <;> rcases hd : deNext s with _ | j <;> rw [hf, hd] at h
      · exact .inr (.inr (.inr (.inr ⟨rfl, rfl, rfl, by simpa using h.symm⟩)))
      · exact .inr (.inr (.inl ⟨rfl, j, .inr ⟨rfl, rfl⟩, h⟩))
      · exact .inr (.inr (.inl ⟨rfl, i, .inl ⟨rfl, rfl⟩, h⟩))
      · refine .inr (.inr (.inr (.inl ⟨rfl, i, j, if Config.freeChoice s.draws then i else j, rfl, rfl, ?_, h⟩)))
        cases Config.freeChoice s.draws
        · exact .inr rfl
        · exact .inl rfl
    · rename_i e
      rw [ha] at h
      cases hd : decode e with
      | ok i =>
        simp only [hd] at h
        exact .inl ⟨e, rest, i, rfl, hd, h⟩
      | error err => simp [hd] at h
    · rw [ha] at h
      exact .inr (.inl ⟨rest, rfl, by simpa using h.symm⟩)
  next => cases h

end Sys2Proof.Machine
end

