-- ==== Sys2Proof/Laws/Enabling.lean ====
section
/-! SUPPORT. The two selection functions of `fetch` choose exactly the enabled steps of their agents, and a step runs an instruction, resets
the block, or rests. -/

namespace Sys2Proof.Machine

/-- FE's choice is its enabled step. -/
theorem feNext_eq_some {s : State} {i : Instr} : feNext s = some i ↔ StepEnabled i s ∧ agentOf i = .fe := by
  constructor
  · intro h
    unfold feNext at h
    split at h
    next hp =>
      split at h
      next ht =>
        cases h
        simp only [feTakeEnabled, decide_eq_true_eq] at ht
        exact ⟨.feTake s ht.1 ht.2.1 ht.2.2, rfl⟩
      next =>
        split at h
        next hh =>
          cases h
          simp only [feHaltEnabled, State.fqRoom, Bool.and_eq_true, decide_eq_true_eq] at hh
          exact ⟨.feHalt s hh.1.1 hh.1.2 hh.2, rfl⟩
        next => cases h
    next hp => cases h; exact ⟨.feMag s hp, rfl⟩
    next hp => cases h; exact ⟨.feDemod s hp, rfl⟩
    next hp => cases h; exact ⟨.feFrame s hp, rfl⟩
    next hp =>
      split at h
      next he =>
        cases h
        simp only [feEmitEnabled, State.fqRoom, Bool.and_eq_true, Bool.or_eq_true, decide_eq_true_eq] at he
        exact ⟨.feEmit s hp he.2, rfl⟩
      next => cases h
    next => cases h
  · rintro ⟨h, ha⟩
    unfold feNext
    cases h with
    | feTake _ hp hr hq => simp [hp, feTakeEnabled, hr, hq]
    | feMag _ hp => simp [hp]
    | feDemod _ hp => simp [hp]
    | feFrame _ hp => simp [hp]
    | feEmit _ hp hq => simp [hp, feEmitEnabled, State.fqRoom, hq]
    | feHalt _ hp hr hq => simp [hp, feTakeEnabled, feHaltEnabled, State.fqRoom, hr, hq]
    | deTake => cases ha
    | deDecode => cases ha
    | deEmit => cases ha

/-- DE's choice is its enabled step. -/
theorem deNext_eq_some {s : State} {i : Instr} : deNext s = some i ↔ StepEnabled i s ∧ agentOf i = .de := by
  constructor
  · intro h
    unfold deNext at h
    split at h
    next hp =>
      split at h
      next ht =>
        cases h
        simp only [deTakeEnabled, decide_eq_true_eq] at ht
        exact ⟨.deTake s ht.1 ht.2, rfl⟩
      next => cases h
    next hp => cases h; exact ⟨.deDecode s hp, rfl⟩
    next hp =>
      split at h
      next he =>
        cases h
        simp only [deEmitEnabled, State.oqRoom, Bool.and_eq_true, decide_eq_true_eq] at he
        exact ⟨.deEmit s hp he.2, rfl⟩
      next => cases h
    next => cases h
  · rintro ⟨h, ha⟩
    unfold deNext
    cases h with
    | deTake _ hp hq => simp [hp, deTakeEnabled, hq]
    | deDecode _ hp => simp [hp]
    | deEmit _ hp hq => simp [hp, deEmitEnabled, State.oqRoom, hq]
    | feTake => cases ha
    | feMag => cases ha
    | feDemod => cases ha
    | feFrame => cases ha
    | feEmit => cases ha
    | feHalt => cases ha

/-- Every enabled step is FE's or DE's choice. -/
theorem next_of_enabled {s : State} {i : Instr} (h : StepEnabled i s) : feNext s = some i ∨ deNext s = some i := by
  have ha : agentOf i = .fe ∨ agentOf i = .de := by
    cases h <;> first | exact .inl rfl | exact .inr rfl
  exact ha.imp (fun ha => feNext_eq_some.2 ⟨h, ha⟩) (fun ha => deNext_eq_some.2 ⟨h, ha⟩)

/-- Where neither agent has a choice no step is enabled. -/
theorem not_enabled_of_next {s : State} (hf : feNext s = none) (hd : deNext s = none) (i : Instr) : ¬ StepEnabled i s := by
  intro h
  rcases next_of_enabled h with h | h
  · rw [hf] at h; cases h
  · rw [hd] at h; cases h

/-- Where FE alone has a choice it is the one enabled step. -/
theorem enabled_fe_of_next {s : State} {i : Instr} (hf : feNext s = some i) (hd : deNext s = none) (j : Instr)
    (h : StepEnabled j s) : j = i := by
  rcases next_of_enabled h with h | h
  · rw [hf] at h; cases h; rfl
  · rw [hd] at h; cases h

/-- Where DE alone has a choice it is the one enabled step. -/
theorem enabled_de_of_next {s : State} {i : Instr} (hf : feNext s = none) (hd : deNext s = some i) (j : Instr)
    (h : StepEnabled j s) : j = i := by
  rcases next_of_enabled h with h | h
  · rw [hf] at h; cases h
  · rw [hd] at h; cases h; rfl

/-- A step that answers a next state runs an instruction, is the RST input, or rests. -/
theorem step_runsIn {s t : State} (h : step s = .next t) :
    (∃ i u, RunsIn i u s ∧ exec i u = .next t)
      ∨ (∃ rest, s.agenda = .rst :: rest ∧ t = ({ s with agenda := rest }).resetBlock)
      ∨ (s.agenda = [] ∧ (∀ i, ¬ StepEnabled i s) ∧ t = s) := by
  obtain ⟨-, ⟨e, rest, i, ha, hd, hx⟩ | hr | ⟨ha, i, hi, hx⟩ | ⟨ha, i, j, k, hf, hd, hk, hx⟩ | ⟨ha, hf, hd, ht⟩⟩ := step_cases h
  · exact .inl ⟨i, _, .inl ⟨e, rest, ha, hd, rfl⟩, hx⟩
  · exact .inr (.inl hr)
  · obtain ⟨hf, hd⟩ | ⟨hf, hd⟩ := hi
    · exact .inl ⟨i, s, .inr (.inl ⟨ha, (feNext_eq_some.1 hf).1, enabled_fe_of_next hf hd, rfl⟩), hx⟩
    · exact .inl ⟨i, s, .inr (.inl ⟨ha, (deNext_eq_some.1 hd).1, enabled_de_of_next hf hd, rfl⟩), hx⟩
  · have hi := feNext_eq_some.1 hf
    have hj := deNext_eq_some.1 hd
    have hne : i ≠ j := by
      rintro rfl
      exact absurd (hi.2.symm.trans hj.2) (by decide)
    obtain rfl | rfl := hk
    · exact .inl ⟨k, _, .inr (.inr ⟨ha, hi.1, ⟨j, hj.1, hne.symm⟩, rfl⟩), hx⟩
    · exact .inl ⟨k, _, .inr (.inr ⟨ha, hj.1, ⟨i, hi.1, hne⟩, rfl⟩), hx⟩
  · exact .inr (.inr ⟨ha, not_enabled_of_next hf hd, ht⟩)

end Sys2Proof.Machine
end

