-- ==== Sys2Proof/Laws/Memory.lean ====
section
/-! SUPPORT. The block buffer: every operation keeps the canonical form, and what each operation does to a read of one byte. -/

namespace Sys2Proof.Machine

theorem memory_wf_nil : Memory.wf [] := sparseWf_nil _

theorem memory_write_wf {m : Memory} (h : m.wf) (a : Nat) (v : Byte) : (m.write a v).wf := sparseWrite_wf h a v

theorem memory_setWord_wf {m : Memory} (h : m.wf) (k : Nat) (v : W16) : (m.setWord k v).wf :=
  memory_write_wf (memory_write_wf h _ _) _ _

theorem memory_read_write {m : Memory} (h : m.wf) (a b : Nat) (v : Byte) :
    (m.write a v).read b = if b = a then v else m.read b := sparseRead_write h a b v

/-- The cells of bytes from a on lie in a ≤ address < a + n, rise, and hold no unlisted value. -/
theorem cellsFrom_wf (a : Nat) (bs : List Byte) :
    Memory.wf (Memory.cellsFrom a bs) ∧ ∀ c ∈ Memory.cellsFrom a bs, a ≤ c.1 ∧ c.1 < a + bs.length := by
  induction bs generalizing a with
  | nil => exact ⟨memory_wf_nil, by simp [Memory.cellsFrom]⟩
  | cons b bs ih =>
    obtain ⟨hw, hb⟩ := ih (a + 1)
    simp only [Memory.cellsFrom]
    split
    · exact ⟨hw, fun c hc => by have := hb c hc; simp only [List.length_cons]; omega⟩
    next hne =>
      refine ⟨sparseWf_cons.2 ⟨fun c hc => (hb c hc).1, hne, hw⟩, fun c hc => ?_⟩
      rcases List.mem_cons.1 hc with rfl | hc
      · simp
      · have := hb c hc; simp only [List.length_cons]; omega

theorem sparseWf_append {α : Type} [DecidableEq α] {d : α} {l r : List (Nat × α)} (hl : sparseWf d l) (hr : sparseWf d r)
    (h : ∀ p ∈ l, ∀ q ∈ r, p.1 < q.1) : sparseWf d (l ++ r) :=
  ⟨List.pairwise_append.2 ⟨hl.1, hr.1, h⟩, fun p hp => (List.mem_append.1 hp).elim (hl.2 p) (hr.2 p)⟩

/-- A block store keeps the canonical form. -/
theorem memory_store_wf {m : Memory} (h : m.wf) (bs : List Byte) : (m.store bs).wf := by
  refine sparseWf_append (cellsFrom_wf 0 bs).1 ⟨h.1.filter _, fun p hp => h.2 p (List.mem_of_mem_filter hp)⟩ ?_
  intro p hp q hq
  have h1 := ((cellsFrom_wf 0 bs).2 p hp).2
  have h2 := (List.mem_filter.1 hq).2
  simp only [decide_eq_true_eq] at h2
  omega

theorem sparseRead_append {α : Type} (d : α) (l r : List (Nat × α)) (k : Nat) :
    sparseRead d (l ++ r) k = if k ∈ l.map Prod.fst then sparseRead d l k else sparseRead d r k := by
  induction l with
  | nil => simp
  | cons p l ih =>
    obtain ⟨a, v⟩ := p
    simp only [List.cons_append, sparseRead, ih, List.map_cons, List.mem_cons]
    by_cases hk : k = a
    · simp [hk]
    · simp only [hk, if_false, false_or]

theorem sparseRead_filter {α : Type} (d : α) (l : List (Nat × α)) (n k : Nat) :
    sparseRead d (l.filter (fun c => n ≤ c.1)) k = if n ≤ k then sparseRead d l k else d := by
  induction l with
  | nil => simp [sparseRead]
  | cons p l ih =>
    obtain ⟨a, v⟩ := p
    simp only [List.filter_cons]
    by_cases ha : n ≤ a
    · simp only [ha, decide_true, if_true, sparseRead, ih]
      by_cases hk : k = a
      · subst hk; simp [ha]
      · simp [hk]
    · simp only [ha, decide_false, Bool.false_eq_true, if_false, ih, sparseRead]
      by_cases hk : k = a
      · subst hk; simp [ha]
      · simp [hk]

theorem sparseRead_cellsFrom (a : Nat) (bs : List Byte) (k : Nat) (hk : a ≤ k) :
    sparseRead Memory.unlisted (Memory.cellsFrom a bs) k = bs.getD (k - a) Memory.unlisted := by
  induction bs generalizing a with
  | nil => simp [Memory.cellsFrom]
  | cons b bs ih =>
    simp only [Memory.cellsFrom]
    rcases Nat.eq_or_lt_of_le hk with rfl | hlt
    · split
      next hb =>
        rw [sparseRead_below fun c hc => ((cellsFrom_wf (a + 1) bs).2 c hc).1]
        simp [hb]
      · simp [sparseRead]
    · have : k - a = (k - (a + 1)) + 1 := by omega
      split
      · rw [ih _ hlt, this]; simp
      · rw [sparseRead_cons, if_neg (Nat.ne_of_gt hlt), ih _ hlt, this]; simp

/-- A byte after a block store: the stored byte inside the block, the byte as before past it. -/
theorem memory_read_store (m : Memory) (bs : List Byte) (a : Nat) :
    (m.store bs).read a = if a < bs.length then bs.getD a 0 else m.read a := by
  unfold Memory.store Memory.read
  rw [sparseRead_append, sparseRead_filter]
  split
  next hm =>
    obtain ⟨c, hc, rfl⟩ := List.mem_map.1 hm
    have := (cellsFrom_wf 0 bs).2 c hc
    rw [if_pos (by omega), sparseRead_cellsFrom 0 bs _ (Nat.zero_le _)]
    rfl
  next hm =>
    by_cases ha : a < bs.length
    · rw [if_pos ha, if_neg (by omega)]
      have h0 : sparseRead Memory.unlisted (Memory.cellsFrom 0 bs) a = Memory.unlisted := by
        have : ∀ l : Memory, a ∉ l.map Prod.fst → sparseRead Memory.unlisted l a = Memory.unlisted := by
          intro l
          induction l with
          | nil => intro _; rfl
          | cons p l ih =>
            obtain ⟨b, v⟩ := p
            intro h
            simp only [List.map_cons, List.mem_cons, not_or] at h
            simp [sparseRead, h.1, ih h.2]
        exact this _ hm
      rw [sparseRead_cellsFrom 0 bs a (Nat.zero_le _)] at h0
      simpa [Memory.unlisted] using h0.symm
    · rw [if_neg ha, if_pos (by omega)]

theorem loadFrom_length (m : Memory) (a n : Nat) : (m.loadFrom a n).length = n := by
  induction n generalizing m a with
  | zero => cases m <;> rfl
  | succ n ih =>
    cases m with
    | nil => simp [Memory.loadFrom, ih]
    | cons c m =>
      obtain ⟨k, v⟩ := c
      simp only [Memory.loadFrom]
      split <;> simp [ih]

@[simp] theorem memory_load_length (m : Memory) (n : Nat) : (m.load n).length = n := loadFrom_length m 0 n

theorem loadFrom_getD {m : Memory} (h : m.wf) (a n : Nat) (hlow : ∀ c ∈ m, a ≤ c.1) (j : Nat) (hj : j < n) :
    (m.loadFrom a n).getD j 0 = m.read (a + j) := by
  induction n generalizing m a j with
  | zero => omega
  | succ n ih =>
    cases m with
    | nil =>
      simp only [Memory.loadFrom]
      cases j with
      | zero => rfl
      | succ j =>
        have := ih h (a + 1) (by simp) j (by omega)
        simpa [Memory.read] using this
    | cons c m =>
      obtain ⟨k, v⟩ := c
      obtain ⟨hlt, -, hm⟩ := sparseWf_cons.1 h
      have hk : a ≤ k := hlow _ List.mem_cons_self
      simp only [Memory.loadFrom]
      split
      next hka =>
        subst hka
        cases j with
        | zero => simp [Memory.read, sparseRead]
        | succ j =>
          have := ih hm (k + 1) (fun c hc => hlt c hc) j (by omega)
          have hne : k + (j + 1) ≠ k := by omega
          simp only [List.getD_cons_succ, this, Memory.read, sparseRead, if_neg hne]
          congr 1
          omega
      next hka =>
        have hlow' : ∀ c ∈ ((k, v) :: m : Memory), a + 1 ≤ c.1 := by
          intro c hc
          rcases List.mem_cons.1 hc with rfl | hc
          · simp only; omega
          · have := hlt c hc; omega
        cases j with
        | zero =>
          have : Memory.read ((k, v) :: m) a = Memory.unlisted :=
            sparseRead_below (fun c hc => by have := hlow' c hc; omega)
          simp [this, Memory.unlisted]
        | succ j =>
          have := ih h (a + 1) hlow' j (by omega)
          simp only [List.getD_cons_succ, this]
          congr 1
          omega

/-- Byte j of a loaded block is B[j]. -/
theorem memory_load_getD {m : Memory} (h : m.wf) (n j : Nat) (hj : j < n) : (m.load n).getD j 0 = m.read j := by
  simpa [Memory.load] using loadFrom_getD h 0 n (by simp) j hj

@[simp] theorem bytesOfWords_length (ws : List W16) : (bytesOfWords ws).length = 2 * ws.length := by
  induction ws with
  | nil => rfl
  | cons w ws ih => simp [bytesOfWords, ih]; omega

/-- The byte view and the word view are one storage. -/
@[simp] theorem wordsOfBytes_bytesOfWords (ws : List W16) : wordsOfBytes (bytesOfWords ws) = ws := by
  induction ws with
  | nil => rfl
  | cons w ws ih =>
    simp only [bytesOfWords, wordsOfBytes, ih, List.cons.injEq, and_true]
    apply BitVec.eq_of_getLsbD_eq
    intro i hi
    rw [BitVec.getLsbD_append]
    by_cases h8 : i < 8
    · simp [h8]
    · have e : 8 + (i - 8) = i := by omega
      simp [h8, e]
      omega

/-- Loading what was stored gives it back. -/
theorem memory_load_store {m : Memory} (h : m.wf) (bs : List Byte) : (m.store bs).load bs.length = bs := by
  apply List.ext_getElem (by simp)
  intro j h1 h2
  have := memory_load_getD (memory_store_wf h bs) bs.length j h2
  rw [memory_read_store, if_pos h2] at this
  simpa [List.getD_eq_getElem?_getD, h1, h2] using this

end Sys2Proof.Machine
end

