-- ==== Sys2Proof/Laws/Passes.lean ====
section
/-! SUPPORT. The lengths the passes keep: the words of a block, the magnitudes, and the words of a demodulation pass. -/

namespace Sys2Proof.Machine

theorem wordsOfBytes_length : ∀ bs : List Byte, (wordsOfBytes bs).length = bs.length / 2
  | [] => rfl
  | [_] => by simp [wordsOfBytes]
  | _ :: _ :: bs => by simp only [wordsOfBytes, List.length_cons, wordsOfBytes_length bs]; omega

theorem magWords_length : ∀ bs : List Byte, (magWords bs).length = bs.length / 2
  | [] => rfl
  | [_] => by simp [magWords]
  | _ :: _ :: bs => by simp only [magWords, List.length_cons, magWords_length bs]; omega

/-- A block has N words. -/
@[simp] theorem words_length (s : State) : s.words.length = s.wordCount := by
  simp [State.words, wordsOfBytes_length]

theorem markWindow_length (p : Params) (w : List W16) (i : Nat) : (markWindow p w i).length = w.length := by
  unfold markWindow
  generalize List.range 16 = ks
  induction ks generalizing w with
  | nil => rfl
  | cons k ks ih => simp only [List.foldl_cons, ih, List.length_set]

/-- A move of the demodulator keeps the number of words. -/
theorem demodMove_length {p : Params} {quality : Byte} {allowed : Nat} {r : DemodRegs} {w : List W16} :
    (∀ w', demodMove p quality allowed r w = .done w' → w'.length = w.length)
      ∧ ∀ r' w', demodMove p quality allowed r w = .more r' w' → w'.length = w.length := by
  unfold demodMove demodSearch demodPair demodAccept
  constructor
  · intro w' h
    cases hm : r.mode <;> simp only [hm] at h
    · split at h
      · split at h
        · split at h <;> cases h
        · split at h
          · cases h
          · cases h; rfl
      · cases h; rfl
    · split at h
      · split at h
        · cases h
        · split at h <;> cases h
      · cases h
  · intro r' w' h
    cases hm : r.mode <;> simp only [hm] at h
    · split at h
      · split at h
        · split at h
          · cases h; exact markWindow_length p w r.i
          · cases h; rfl
        · split at h
          · cases h; rfl
          · cases h
      · cases h
    · split at h
      · split at h
        · cases h; simp
        · split at h <;> cases h <;> simp
      · cases h; rfl

/-- A pass that ends keeps the number of words. -/
theorem demodRun_length {p : Params} {quality : Byte} {allowed fuel : Nat} {r : DemodRegs} {w w' : List W16}
    (h : demodRun p quality allowed fuel r w = some w') : w'.length = w.length := by
  induction fuel generalizing r w with
  | zero => cases h
  | succ fuel ih =>
    unfold demodRun at h
    split at h
    next hd => cases h; exact demodMove_length.1 _ hd
    next hd => rw [ih h, demodMove_length.2 _ _ hd]

end Sys2Proof.Machine
end

