-- ==== Sys2Proof/Laws/PerInstr.lean ====
section
/-! SUPPORT. The family RoundTrip: for each constructor of Instr, the decoder reads the encoded instruction back. -/

namespace Sys2Proof.Laws

/-- What a transaction word's fields read back. -/
theorem txn_fields (k : BitVec 2) (r : BitVec 6) (v : W32) :
    txnKind (k ++ r ++ v) = k ∧ txnReg (k ++ r ++ v) = r ∧ txnData (k ++ r ++ v) = v := by
  refine ⟨?_, ?_, ?_⟩ <;> refine BitVec.eq_of_getLsbD_eq fun i hi => ?_ <;>
    simp only [txnKind, txnReg, txnData, BitVec.getLsbD_extractLsb', BitVec.getLsbD_append]
  · interval_cases i <;> simp
  · interval_cases i <;> simp
  · simp [hi]

/-- The decoder on a transaction word given by its fields. -/
theorem decodeTxn_fields (k : BitVec 2) (r : BitVec 6) (v : W32) (payload : List Byte) :
    decodeTxn (k ++ r ++ v) payload =
      if k = 0 then
        if v ≠ 0 then .error .dataNotZero else if payload ≠ [] then .error .payloadLength else .ok (.rdR r)
      else if k = 1 then
        if payload ≠ [] then .error .payloadLength else .ok (decodeRegWrite r v)
      else if k = 2 then
        if r ≠ 0 then .error .regNotZero
        else if payload.length ≠ v.toNat then .error .payloadLength else .ok (.submit payload)
      else
        if r ≠ 0 then .error .regNotZero
        else if v ≠ 0 then .error .dataNotZero
        else if payload ≠ [] then .error .payloadLength else .ok .pop := by
  obtain ⟨hk, hr, hd⟩ := txn_fields k r v
  unfold decodeTxn
  rw [hk, hr, hd]

/-- What the operands of `CFG q, ae, f1, f2, c, m` read back from its word. -/
theorem cfgWord_fields (q ae : Byte) (f1 f2 c m : BitVec 1) :
    let w : Txn := 0b01#2 ++ 2#6 ++ cfgData q ae f1 f2 c m
    w.extractLsb' 20 20 = 0b01000010000000000000#20 ∧ w.extractLsb' 0 8 = q ∧ w.extractLsb' 8 8 = ae ∧ w.extractLsb' 16 1 = f1
      ∧ w.extractLsb' 17 1 = f2 ∧ w.extractLsb' 18 1 = c ∧ w.extractLsb' 19 1 = m := by
  refine ⟨?_, ?_, ?_, ?_, ?_, ?_, ?_⟩ <;> refine BitVec.eq_of_getLsbD_eq fun i hi => ?_ <;>
    simp only [cfgData, BitVec.getLsbD_extractLsb', BitVec.getLsbD_append] <;> interval_cases i <;> simp

namespace RoundTrip

/-- The instruction as syntax: where its operands are well formed, decoding its encoded form gives it back. -/
def Statement (i : Instr) : Prop := i.wellFormed = true → decode (encode i) = .ok i

theorem rdR (r : BitVec 6) : Statement (.rdR r) := by
  intro _
  change decodeTxn (0#2 ++ r ++ 0#32) [] = _
  rw [decodeTxn_fields]
  simp

theorem wr0Start : Statement (.wr0Start) := fun _ => by decide

theorem wr0Stop : Statement (.wr0Stop) := fun _ => by decide

theorem wr0Reset : Statement (.wr0Reset) := fun _ => by decide

theorem wr0Undefined (v : W32) : Statement (.wr0Undefined v) := by
  intro h
  simp only [Instr.wellFormed, Bool.and_eq_true, bne_iff_ne, ne_eq] at h
  change decodeTxn (1#2 ++ 0#6 ++ v) [] = _
  rw [decodeTxn_fields]
  simp_all [decodeRegWrite]

theorem wr2Cfg (v : W32) : Statement (.wr2Cfg v) := by
  intro _
  change decodeTxn (1#2 ++ 2#6 ++ v) [] = _
  rw [decodeTxn_fields]
  simp [decodeRegWrite]

theorem wrOther (r : BitVec 6) (v : W32) : Statement (.wrOther r v) := by
  intro h
  simp only [Instr.wellFormed, Bool.and_eq_true, bne_iff_ne, ne_eq] at h
  change decodeTxn (1#2 ++ r ++ v) [] = _
  rw [decodeTxn_fields]
  simp_all [decodeRegWrite]

theorem submit (payload : List Byte) : Statement (.submit payload) := by
  intro h
  simp only [Instr.wellFormed, decide_eq_true_eq] at h
  change decodeTxn (2#2 ++ 0#6 ++ BitVec.ofNat 32 payload.length) payload = _
  rw [decodeTxn_fields]
  simp
  omega

theorem pop : Statement (.pop) := fun _ => by decide

theorem start : Statement (.start) := fun _ => by decide

theorem stop : Statement (.stop) := fun _ => by decide

theorem reset : Statement (.reset) := fun _ => by decide

theorem cfgWrite (q : Byte) (ae : Byte) (f1 : BitVec 1) (f2 : BitVec 1) (c : BitVec 1) (m : BitVec 1) : Statement (.cfgWrite q ae f1 f2 c m) := by
  intro _
  obtain ⟨h20, hq, hae, hf1, hf2, hc, hm⟩ := cfgWord_fields q ae f1 f2 c m
  change decodePseudo (0b01#2 ++ 2#6 ++ cfgData q ae f1 f2 c m) = _
  unfold decodePseudo
  have hne : ∀ k : Txn, k.extractLsb' 20 20 ≠ 0b01000010000000000000#20 → (0b01#2 ++ 2#6 ++ cfgData q ae f1 f2 c m : Txn) ≠ k :=
    fun k hk he => hk (he ▸ h20)
  rw [if_neg (hne _ (by decide)), if_neg (hne _ (by decide)), if_neg (hne _ (by decide)), if_neg (hne _ (by decide)), if_pos h20,
    hq, hae, hf1, hf2, hc, hm]

theorem rdStatus : Statement (.rdStatus) := fun _ => by decide

theorem feTake : Statement (.feTake) := fun _ => by decide

theorem feMag : Statement (.feMag) := fun _ => by decide

theorem feDemod : Statement (.feDemod) := fun _ => by decide

theorem feFrame : Statement (.feFrame) := fun _ => by decide

theorem feEmit : Statement (.feEmit) := fun _ => by decide

theorem feHalt : Statement (.feHalt) := fun _ => by decide

theorem deTake : Statement (.deTake) := fun _ => by decide

theorem deDecode : Statement (.deDecode) := fun _ => by decide

theorem deEmit : Statement (.deEmit) := fun _ => by decide

theorem df0 (f3 : BitVec 3) : Statement (.df0 f3) := fun _ => by revert f3; decide

theorem df1 (f3 : BitVec 3) : Statement (.df1 f3) := fun _ => by revert f3; decide

theorem df2 (f3 : BitVec 3) : Statement (.df2 f3) := fun _ => by revert f3; decide

theorem df3 (f3 : BitVec 3) : Statement (.df3 f3) := fun _ => by revert f3; decide

theorem df4 (f3 : BitVec 3) : Statement (.df4 f3) := fun _ => by revert f3; decide

theorem df5 (f3 : BitVec 3) : Statement (.df5 f3) := fun _ => by revert f3; decide

theorem df6 (f3 : BitVec 3) : Statement (.df6 f3) := fun _ => by revert f3; decide

theorem df7 (f3 : BitVec 3) : Statement (.df7 f3) := fun _ => by revert f3; decide

theorem df8 (f3 : BitVec 3) : Statement (.df8 f3) := fun _ => by revert f3; decide

theorem df9 (f3 : BitVec 3) : Statement (.df9 f3) := fun _ => by revert f3; decide

theorem df10 (f3 : BitVec 3) : Statement (.df10 f3) := fun _ => by revert f3; decide

theorem df11 (f3 : BitVec 3) : Statement (.df11 f3) := fun _ => by revert f3; decide

theorem df12 (f3 : BitVec 3) : Statement (.df12 f3) := fun _ => by revert f3; decide

theorem df13 (f3 : BitVec 3) : Statement (.df13 f3) := fun _ => by revert f3; decide

theorem df14 (f3 : BitVec 3) : Statement (.df14 f3) := fun _ => by revert f3; decide

theorem df15 (f3 : BitVec 3) : Statement (.df15 f3) := fun _ => by revert f3; decide

theorem df16 (f3 : BitVec 3) : Statement (.df16 f3) := fun _ => by revert f3; decide

theorem df17 (f3 : BitVec 3) : Statement (.df17 f3) := fun _ => by revert f3; decide

theorem df18 (f3 : BitVec 3) : Statement (.df18 f3) := fun _ => by revert f3; decide

theorem df19 (f3 : BitVec 3) : Statement (.df19 f3) := fun _ => by revert f3; decide

theorem df20 (f3 : BitVec 3) : Statement (.df20 f3) := fun _ => by revert f3; decide

theorem df21 (f3 : BitVec 3) : Statement (.df21 f3) := fun _ => by revert f3; decide

theorem df22 (f3 : BitVec 3) : Statement (.df22 f3) := fun _ => by revert f3; decide

theorem df23 (f3 : BitVec 3) : Statement (.df23 f3) := fun _ => by revert f3; decide

theorem df24 (f3 : BitVec 3) : Statement (.df24 f3) := fun _ => by revert f3; decide

theorem df25 (f3 : BitVec 3) : Statement (.df25 f3) := fun _ => by revert f3; decide

theorem df26 (f3 : BitVec 3) : Statement (.df26 f3) := fun _ => by revert f3; decide

theorem df27 (f3 : BitVec 3) : Statement (.df27 f3) := fun _ => by revert f3; decide

theorem df28 (f3 : BitVec 3) : Statement (.df28 f3) := fun _ => by revert f3; decide

theorem df29 (f3 : BitVec 3) : Statement (.df29 f3) := fun _ => by revert f3; decide

theorem df30 (f3 : BitVec 3) : Statement (.df30 f3) := fun _ => by revert f3; decide

theorem df31 (f3 : BitVec 3) : Statement (.df31 f3) := fun _ => by revert f3; decide

theorem meTc0 (st : BitVec 3) : Statement (.meTc0 st) := fun _ => by revert st; decide

theorem meTc1 (st : BitVec 3) : Statement (.meTc1 st) := fun _ => by revert st; decide

theorem meTc2 (st : BitVec 3) : Statement (.meTc2 st) := fun _ => by revert st; decide

theorem meTc3 (st : BitVec 3) : Statement (.meTc3 st) := fun _ => by revert st; decide

theorem meTc4 (st : BitVec 3) : Statement (.meTc4 st) := fun _ => by revert st; decide

theorem meTc5 (st : BitVec 3) : Statement (.meTc5 st) := fun _ => by revert st; decide

theorem meTc6 (st : BitVec 3) : Statement (.meTc6 st) := fun _ => by revert st; decide

theorem meTc7 (st : BitVec 3) : Statement (.meTc7 st) := fun _ => by revert st; decide

theorem meTc8 (st : BitVec 3) : Statement (.meTc8 st) := fun _ => by revert st; decide

theorem meTc9 (st : BitVec 3) : Statement (.meTc9 st) := fun _ => by revert st; decide

theorem meTc10 (st : BitVec 3) : Statement (.meTc10 st) := fun _ => by revert st; decide

theorem meTc11 (st : BitVec 3) : Statement (.meTc11 st) := fun _ => by revert st; decide

theorem meTc12 (st : BitVec 3) : Statement (.meTc12 st) := fun _ => by revert st; decide

theorem meTc13 (st : BitVec 3) : Statement (.meTc13 st) := fun _ => by revert st; decide

theorem meTc14 (st : BitVec 3) : Statement (.meTc14 st) := fun _ => by revert st; decide

theorem meTc15 (st : BitVec 3) : Statement (.meTc15 st) := fun _ => by revert st; decide

theorem meTc16 (st : BitVec 3) : Statement (.meTc16 st) := fun _ => by revert st; decide

theorem meTc17 (st : BitVec 3) : Statement (.meTc17 st) := fun _ => by revert st; decide

theorem meTc18 (st : BitVec 3) : Statement (.meTc18 st) := fun _ => by revert st; decide

theorem meTc19St0 : Statement (.meTc19St0) := fun _ => by decide

theorem meTc19St1 : Statement (.meTc19St1) := fun _ => by decide

theorem meTc19St2 : Statement (.meTc19St2) := fun _ => by decide

theorem meTc19St3 : Statement (.meTc19St3) := fun _ => by decide

theorem meTc19St4 : Statement (.meTc19St4) := fun _ => by decide

theorem meTc19St5 : Statement (.meTc19St5) := fun _ => by decide

theorem meTc19St6 : Statement (.meTc19St6) := fun _ => by decide

theorem meTc19St7 : Statement (.meTc19St7) := fun _ => by decide

theorem meTc20 (st : BitVec 3) : Statement (.meTc20 st) := fun _ => by revert st; decide

theorem meTc21 (st : BitVec 3) : Statement (.meTc21 st) := fun _ => by revert st; decide

theorem meTc22 (st : BitVec 3) : Statement (.meTc22 st) := fun _ => by revert st; decide

theorem meTc23 (st : BitVec 3) : Statement (.meTc23 st) := fun _ => by revert st; decide

theorem meTc24 (st : BitVec 3) : Statement (.meTc24 st) := fun _ => by revert st; decide

theorem meTc25 (st : BitVec 3) : Statement (.meTc25 st) := fun _ => by revert st; decide

theorem meTc26 (st : BitVec 3) : Statement (.meTc26 st) := fun _ => by revert st; decide

theorem meTc27 (st : BitVec 3) : Statement (.meTc27 st) := fun _ => by revert st; decide

theorem meTc28 (st : BitVec 3) : Statement (.meTc28 st) := fun _ => by revert st; decide

theorem meTc29 (st : BitVec 3) : Statement (.meTc29 st) := fun _ => by revert st; decide

theorem meTc30 (st : BitVec 3) : Statement (.meTc30 st) := fun _ => by revert st; decide

theorem meTc31 (st : BitVec 3) : Statement (.meTc31 st) := fun _ => by revert st; decide

end RoundTrip

end Sys2Proof.Laws
end

