-- ==== Sys2Proof/Tests/Slice0.lean ====
section
/-! SUPPORT. The model's own tests: the well-formedness smoke, words of every family decoded, the vectors of 95_test_vectors.md, and for each
obligation with hypotheses a witness that meets them. Every expected value is the spec's. -/

namespace Sys2Proof.Tests

/- One theorem after another: many elaboration threads at once exceed the memory limit. -/
set_option Elab.async false

open Sys2Proof.Machine

/-! ### Helpers -/

/-- The next state of an outcome, none where it stops. -/
def nextOf : Host.Outcome State Fault Refusal → Option State
  | .next s => some s
  | .fault _ => none
  | .refused _ => none

/-- The next state of an instruction. -/
def runIn (i : Instr) (s : State) : Option State := nextOf (exec i s)

/-- The frame K of 95_test_vectors.md. -/
def frameK : List Byte := [0x8D, 0x48, 0x40, 0xD6, 0x20, 0x2C, 0xC3, 0x71, 0xC3, 0x2C, 0xE0, 0x57, 0x60, 0x98]

/-- The frame D4 of 95_test_vectors.md. -/
def d4 : List Byte := [0x20, 0x00, 0x18, 0x38, 0x59, 0xC3, 0x8D]

/-- The frame D11 of 95_test_vectors.md. -/
def d11 : List Byte := [0x5D, 0x48, 0x40, 0xD6, 0xF8, 0x74, 0x0F]

/-- After START. -/
def running : State := { State.reset with runState := .running }

/-- After STOP in IDLE. -/
def halted : State := { State.reset with runState := .halted, fePhase := .halted, dePhase := .halted }

/-- DE about to decode the frame f at time 5. -/
def decoding (f : RawFrame) : State := { running with dePhase := .decode, frame := some f, nowIn := [5] }

/-- The frame of the ME byte b (`frameOfByte4`) with its last bit flipped. -/
def oneFlip (b : Byte) : RawFrame := { frameOfByte4 b with bytes := flipBit (frameOfByte4 b).bytes 111 }

/-- The status, DF and byte 4 of the record an outcome leaves in DE. -/
def recordOf (o : Host.Outcome State Fault Refusal) : Option (CrcStatus × BitVec 5 × Byte) :=
  ((nextOf o).bind (·.msg)).map (fun r => (r.status, r.df, r.msg.getD 4 0))

/-- A cache in which the address a was recorded at time 5. -/
def recorded (a : W24) : List (Nat × CacheSlot) := cacheRecord Params.default [] a 5

/-- FE has taken a block of the pairs H and L. -/
def taken : State := { running with fePhase := .mag, blkLen := some 4, mem := [(0, 228), (1, 128), (2, 130), (3, 128)] }

/-- The words of a clean signal of the frame D4. -/
def signal : List W16 := preambleSignal 10000 4 ++ manchester 10000 4 (RawFrame.bits ⟨d4, .short⟩)

/-- FE about to demodulate `signal`. -/
def magnituded : State :=
  { running with fePhase := .demod, blkLen := some 256, mem := Memory.store [] (bytesOfWords signal) }

/-- FE in a pass that never returns (R229): both words are MARK_BADSAMPLE, and TAIL_DECODE is 1. -/
def hung : State :=
  { running with
    params := { Params.default with tailDecode := true, markBad := 256 }, cfg := 0x0005000A, fePhase := .demod, blkLen := some 4,
    mem := [(1, 1), (3, 1)] }

/-- FE in a pass with TAIL_DECODE = 1 whose tail run rejects the pair (1, 1), then (255, 1) after it, and accepts (255, 1) after itself (R108). -/
def tailed : State :=
  { running with
    params := { Params.default with tailDecode := true }, cfg := 0x0005000A, fePhase := .demod, blkLen := some 4,
    mem := [(0, 1), (2, 1)] }

/-- FQ and OQ full, FE and DE holding in their emitting phases. -/
def full : State :=
  { running with
    fePhase := .emit, blkLen := some 2, pending := [⟨d4, .short⟩], fq := List.replicate 8 (.frame ⟨d4, .short⟩),
    dePhase := .emit, msg := some DecodedMessage.blank, oq := List.replicate 8 DecodedMessage.blank }

/-- The registers at the second pair of a run of four words. -/
def firstPair : DemodRegs := { i := 2, i2 := 1, start := 0, errors := 0, a := 9, b := 4, mode := .decode }

theorem d4_ok : RawFrame.Ok ⟨d4, .short⟩ := ⟨rfl, rfl⟩

theorem frameK_ok : RawFrame.Ok ⟨frameK, .long⟩ := ⟨rfl, rfl⟩

/-- `full` meets the invariant. -/
theorem full_inv : full.Inv where
  params_ok := by decide +kernel
  mem_wf := memory_wf_nil
  mem_in_block := by intro c hc; cases hc
  blk_len := by intro n hn; cases hn; decide
  cache_wf := by decide
  cache_slots := by intro e he; cases he
  iq_cap := by decide
  fq_cap := by decide
  oq_cap := by decide
  cfg_reserved := by decide
  fault_reserved := by decide
  fq_frames := by
    intro f hf
    obtain ⟨-, h⟩ := List.mem_replicate.1 hf
    cases h
    exact d4_ok
  pending_frames := by
    intro f hf
    cases List.mem_singleton.1 hf
    exact d4_ok
  de_frame_ok := by intro f hf; cases hf
  fe_block := by decide
  fe_pending := by intro _; rfl
  de_frame := by decide
  de_msg := by decide
  idle_empty := by intro h; cases h
  halted_de := by decide
  halted_fe := by intro h; cases h
  fe_halted := by intro h; cases h
  end_mark := by decide +kernel
  end_last := by
    intro q x h hq
    have : FqItem.endMark ∈ full.fq := h ▸ List.mem_append_left _ hq
    obtain ⟨-, h⟩ := List.mem_replicate.1 this
    cases h

/-- `halted` meets the invariant. -/
theorem halted_inv : halted.Inv where
  params_ok := by decide +kernel
  mem_wf := memory_wf_nil
  mem_in_block := by intro c hc; cases hc
  blk_len := by intro n hn; cases hn
  cache_wf := by decide
  cache_slots := by intro e he; cases he
  iq_cap := by decide
  fq_cap := by decide
  oq_cap := by decide
  cfg_reserved := by decide
  fault_reserved := by decide
  fq_frames := by intro f hf; cases hf
  pending_frames := by intro f hf; cases hf
  de_frame_ok := by intro f hf; cases hf
  fe_block := by decide
  fe_pending := by intro h; exact absurd rfl h
  de_frame := by decide
  de_msg := by decide
  idle_empty := by intro h; cases h
  halted_de := by decide
  halted_fe := by intro _; exact ⟨rfl, rfl⟩
  fe_halted := by intro _; exact ⟨.inr rfl, rfl⟩
  end_mark := by decide
  end_last := by intro q x h; cases q <;> cases h

/-! ### WellFormed: each check refuses an ill-formed term -/

theorem test_wellFormed_undefined_is_no_command :
    (Instr.wr0Undefined 1).wellFormed = false ∧ (Instr.wr0Undefined 2).wellFormed = false
      ∧ (Instr.wr0Undefined 3).wellFormed = false ∧ (Instr.wr0Undefined 0).wellFormed = true := by decide

theorem test_wellFormed_other_register :
    (Instr.wrOther 0 5).wellFormed = false ∧ (Instr.wrOther 2 5).wellFormed = false ∧ (Instr.wrOther 1 5).wellFormed = true := by decide

theorem test_wellFormed_submit_length :
    ∀ payload : List Byte, payload.length = 2 ^ 32 → (Instr.submit payload).wellFormed = false := by
  intro payload h
  simp only [Instr.wellFormed, h]
  decide

/-! ### Decode: words of every family, written out from the spec (30_encoding.md, 95_test_vectors.md 2.5) -/

theorem test_decode_transactions :
    decode (.txn 0x0100000000 []) = .ok (.rdR 1) ∧ decode (.txn 0x0E00000000 []) = .ok (.rdR 14)
      ∧ decode (.txn 0x4000000001 []) = .ok .wr0Start ∧ decode (.txn 0x4000000002 []) = .ok .wr0Stop
      ∧ decode (.txn 0x4000000003 []) = .ok .wr0Reset ∧ decode (.txn 0x4000000007 []) = .ok (.wr0Undefined 7)
      ∧ decode (.txn 0x420005050A []) = .ok (.wr2Cfg 0x5050A) ∧ decode (.txn 0x7F00000001 []) = .ok (.wrOther 63 1)
      ∧ decode (.txn 0x8000000003 [0x80, 0x80, 0x80]) = .ok (.submit [0x80, 0x80, 0x80])
      ∧ decode (.txn 0x8000000000 []) = .ok (.submit []) ∧ decode (.txn 0xC000000000 []) = .ok .pop := by decide

theorem test_decode_refusals :
    decode (.txn 0x0100000001 []) = .error .dataNotZero ∧ decode (.txn 0xC100000000 []) = .error .regNotZero
      ∧ decode (.txn 0xC000000001 []) = .error .dataNotZero ∧ decode (.txn 0x8100000000 []) = .error .regNotZero
      ∧ decode (.txn 0x8000000002 [0x80]) = .error .payloadLength ∧ decode (.txn 0x4000000001 [0x80]) = .error .payloadLength
      ∧ decode (.pseudo 0x4000000004) = .error .notPseudo ∧ decode (.label 0x16) = .error .unknownLabel := by decide

theorem test_decode_pseudo :
    decode (.pseudo 0x4000000001) = .ok .start ∧ decode (.pseudo 0x4000000002) = .ok .stop
      ∧ decode (.pseudo 0x4000000003) = .ok .reset ∧ decode (.pseudo 0x0100000000) = .ok .rdStatus
      ∧ decode (.pseudo 0x420007050A) = .ok (.cfgWrite 10 5 1 1 1 0) ∧ decode (.pseudo 0x4200080000) = .ok (.cfgWrite 0 0 0 0 0 1) := by decide

theorem test_decode_labels :
    decode (.label 0x10) = .ok .feTake ∧ decode (.label 0x11) = .ok .feMag ∧ decode (.label 0x12) = .ok .feDemod
      ∧ decode (.label 0x13) = .ok .feFrame ∧ decode (.label 0x14) = .ok .feEmit ∧ decode (.label 0x15) = .ok .feHalt
      ∧ decode (.label 0x20) = .ok .deTake ∧ decode (.label 0x21) = .ok .deDecode ∧ decode (.label 0x22) = .ok .deEmit := by decide

theorem test_decode_df_0_to_15 :
    decode (.dfByte 0b00000_000) = .ok (.df0 0) ∧ decode (.dfByte 0b00001_001) = .ok (.df1 1)
      ∧ decode (.dfByte 0b00010_010) = .ok (.df2 2) ∧ decode (.dfByte 0b00011_011) = .ok (.df3 3)
      ∧ decode (.dfByte 0b00100_100) = .ok (.df4 4) ∧ decode (.dfByte 0b00101_101) = .ok (.df5 5)
      ∧ decode (.dfByte 0b00110_110) = .ok (.df6 6) ∧ decode (.dfByte 0b00111_111) = .ok (.df7 7)
      ∧ decode (.dfByte 0b01000_000) = .ok (.df8 0) ∧ decode (.dfByte 0b01001_001) = .ok (.df9 1)
      ∧ decode (.dfByte 0b01010_010) = .ok (.df10 2) ∧ decode (.dfByte 0b01011_011) = .ok (.df11 3)
      ∧ decode (.dfByte 0b01100_100) = .ok (.df12 4) ∧ decode (.dfByte 0b01101_101) = .ok (.df13 5)
      ∧ decode (.dfByte 0b01110_110) = .ok (.df14 6) ∧ decode (.dfByte 0b01111_111) = .ok (.df15 7) := by decide

theorem test_decode_df_16_to_31 :
    decode (.dfByte 0b10000_000) = .ok (.df16 0) ∧ decode (.dfByte 0b10001_001) = .ok (.df17 1)
      ∧ decode (.dfByte 0b10010_010) = .ok (.df18 2) ∧ decode (.dfByte 0b10011_011) = .ok (.df19 3)
      ∧ decode (.dfByte 0b10100_100) = .ok (.df20 4) ∧ decode (.dfByte 0b10101_101) = .ok (.df21 5)
      ∧ decode (.dfByte 0b10110_110) = .ok (.df22 6) ∧ decode (.dfByte 0b10111_111) = .ok (.df23 7)
      ∧ decode (.dfByte 0b11000_000) = .ok (.df24 0) ∧ decode (.dfByte 0b11001_001) = .ok (.df25 1)
      ∧ decode (.dfByte 0b11010_010) = .ok (.df26 2) ∧ decode (.dfByte 0b11011_011) = .ok (.df27 3)
      ∧ decode (.dfByte 0b11100_100) = .ok (.df28 4) ∧ decode (.dfByte 0b11101_101) = .ok (.df29 5)
      ∧ decode (.dfByte 0b11110_110) = .ok (.df30 6) ∧ decode (.dfByte 0b11111_111) = .ok (.df31 7) := by decide

theorem test_decode_me :
    decode (.meByte 0b00000_011) = .ok (.meTc0 3) ∧ decode (.meByte 0b00001_100) = .ok (.meTc1 4)
      ∧ decode (.meByte 0b00010_101) = .ok (.meTc2 5) ∧ decode (.meByte 0b00011_110) = .ok (.meTc3 6)
      ∧ decode (.meByte 0b00100_111) = .ok (.meTc4 7) ∧ decode (.meByte 0b00101_000) = .ok (.meTc5 0)
      ∧ decode (.meByte 0b00110_001) = .ok (.meTc6 1) ∧ decode (.meByte 0b00111_010) = .ok (.meTc7 2)
      ∧ decode (.meByte 0b01000_011) = .ok (.meTc8 3) ∧ decode (.meByte 0b01001_100) = .ok (.meTc9 4)
      ∧ decode (.meByte 0b01010_101) = .ok (.meTc10 5) ∧ decode (.meByte 0b01011_110) = .ok (.meTc11 6)
      ∧ decode (.meByte 0b01100_111) = .ok (.meTc12 7) ∧ decode (.meByte 0b01101_000) = .ok (.meTc13 0)
      ∧ decode (.meByte 0b01110_001) = .ok (.meTc14 1) ∧ decode (.meByte 0b01111_010) = .ok (.meTc15 2)
      ∧ decode (.meByte 0b10000_011) = .ok (.meTc16 3) ∧ decode (.meByte 0b10001_100) = .ok (.meTc17 4)
      ∧ decode (.meByte 0b10010_101) = .ok (.meTc18 5) ∧ decode (.meByte 0b10100_111) = .ok (.meTc20 7)
      ∧ decode (.meByte 0b10101_000) = .ok (.meTc21 0) ∧ decode (.meByte 0b10110_001) = .ok (.meTc22 1)
      ∧ decode (.meByte 0b10111_010) = .ok (.meTc23 2) ∧ decode (.meByte 0b11000_011) = .ok (.meTc24 3)
      ∧ decode (.meByte 0b11001_100) = .ok (.meTc25 4) ∧ decode (.meByte 0b11010_101) = .ok (.meTc26 5)
      ∧ decode (.meByte 0b11011_110) = .ok (.meTc27 6) ∧ decode (.meByte 0b11100_111) = .ok (.meTc28 7)
      ∧ decode (.meByte 0b11101_000) = .ok (.meTc29 0) ∧ decode (.meByte 0b11110_001) = .ok (.meTc30 1)
      ∧ decode (.meByte 0b11111_010) = .ok (.meTc31 2) := by decide +kernel

theorem test_decode_me_velocity :
    decode (.meByte 0b10011_000) = .ok .meTc19St0 ∧ decode (.meByte 0b10011_001) = .ok .meTc19St1
      ∧ decode (.meByte 0b10011_010) = .ok .meTc19St2 ∧ decode (.meByte 0b10011_011) = .ok .meTc19St3
      ∧ decode (.meByte 0b10011_100) = .ok .meTc19St4 ∧ decode (.meByte 0b10011_101) = .ok .meTc19St5
      ∧ decode (.meByte 0b10011_110) = .ok .meTc19St6 ∧ decode (.meByte 0b10011_111) = .ok .meTc19St7 := by decide

/-! ### Words numbered as the opcode table numbers them -/

theorem test_table_words :
    decodeTableWord 40 0x4000000001 = some .wr0Start ∧ decodeTableWord 40 0x8000000003 = some (.submit [0, 0, 0])
      ∧ decodeTableWord 40 0x0100000001 = none ∧ decodeTableWord 8 0x12 = some .feDemod
      ∧ decodeTableWord 8 0x8D = some (.df17 5) ∧ decodeTableWord 8 0x99 = some .meTc19St1 ∧ decodeTableWord 16 0 = none := by decide

theorem test_placed_command_runs_first :
    (nextOf (step (State.reset.withFetchWord 40 0x4000000001))).map (·.runState) = some .running := by decide +kernel

theorem test_placed_df_runs_first :
    (nextOf (step (State.reset.withFetchWord 8 0x8D))).map (fun s => (s.dePhase, s.counters.msgFail)) = some (.idle, 1) := by decide +kernel

theorem test_placed_me_runs_first :
    ((nextOf (step (State.reset.withFetchWord 8 0x99))).bind (·.msg)).map (fun m => (m.tc, m.st, m.velValid)) = some (19, 1, true) := by decide +kernel

/-! ### Host transactions (95_test_vectors.md Q1–Q12, R199) -/

theorem test_rdR :
    (runIn (.rdR 2) State.reset).map (·.resp) = some (.value 0x0005050A) ∧ (runIn (.rdR 1) State.reset).map (·.resp) = some (.value 0)
      ∧ (runIn (.rdR 63) State.reset).map (·.resp) = some (.value 0) := by decide

theorem test_rdStatus :
    (runIn .rdStatus { running with iq := [[0x80]] }).map (·.resp) = some (.value 0x11) := by decide

theorem test_start :
    (runIn .wr0Start State.reset).map (·.runState) = some .running ∧ (runIn .start halted).map (·.runState) = some .halted := by decide

theorem test_stop :
    (runIn .wr0Stop State.reset).map (fun s => (s.runState, s.fePhase, s.dePhase)) = some (.halted, .halted, .halted)
      ∧ (runIn .stop running).map (·.runState) = some .stopping := by decide

theorem test_reset :
    runIn .wr0Reset { halted with fault := 13, oq := [DecodedMessage.blank] } = some State.reset
      ∧ runIn .reset { running with cfg := 0 } = some State.reset := by decide

theorem test_undefined_command :
    (runIn (.wr0Undefined 0x101) State.reset).map (·.fault) = some 8 := by decide

theorem test_cfg_write :
    (runIn (.wr2Cfg 0xFFF50500) State.reset).map (·.cfg) = some 0x00050500
      ∧ (runIn (.cfgWrite 0 5 1 0 1 0) running).map (fun s => (s.cfg, s.fault)) = some (0x0005050A, 4) := by decide

theorem test_wrOther :
    runIn (.wrOther 3 0) { running with fault := 13 } = some { running with fault := 13 } := by decide

theorem test_submit :
    (runIn (.submit [0x80, 0x80]) State.reset).map (fun s => (s.resp, s.counters.blkDrop)) = some (.accepted false, 1)
      ∧ (runIn (.submit []) running).map (fun s => (s.resp, s.counters.blkIn, s.iq)) = some (.accepted true, 1, [[]]) := by decide

theorem test_pop :
    (runIn .pop State.reset).map (·.resp) = some .empty
      ∧ (runIn .pop { halted with oq := [DecodedMessage.blank] }).map (fun s => (s.resp, s.oq)) = some (.record DecodedMessage.blank, []) := by decide

/-! ### The front end -/

theorem test_feTake_odd_before_oversize :
    (runIn .feTake { running with iq := [[1, 2, 3]], params := { Params.default with maxBlockBytes := 2 } }).map
      (fun s => (s.fault, s.counters.blkDiscard, s.fePhase)) = some (1, 1, .idle) := by decide

theorem test_feTake_takes :
    (runIn .feTake { running with iq := [[228, 0], []] }).map (fun s => (s.mem, s.blkLen, s.fePhase, s.iq)) =
      some ([(0, 228)], some 2, .mag, [[]]) := by decide

/-- 95_test_vectors.md 2.1: H and L. -/
theorem test_feMag :
    (runIn .feMag { running with fePhase := .mag, blkLen := some 4, mem := [(0, 228), (1, 128), (2, 130), (3, 128)] }).map
      (·.words) = some [10000, 4] := by decide

/-- 95_test_vectors.md 2.1. -/
theorem test_magnitude :
    magnitude 0 0 = 32768 ∧ magnitude 1 128 = 16129 ∧ magnitude 255 255 = 32258 ∧ magnitude 0 255 = 32513 := by decide +kernel

/-- 95_test_vectors.md 1.2: the weak test accepts a window that a min/max test rejects. -/
theorem test_preamble_weak :
    preamble [100, 4, 1000, 500, 4, 4, 4, 1000, 4, 1000, 4, 4, 4, 4, 4, 4] 0 = true
      ∧ preamble (preambleSignal 10000 4) 0 = true ∧ preamble (List.replicate 16 4) 0 = false
      ∧ preamble ((preambleSignal 10000 4).set 15 10000) 0 = false ∧ preamble ((preambleSignal 10000 4).set 8 10000) 0 = false := by decide

/-- 95_test_vectors.md 2.2. -/
theorem test_decisions :
    singleManchester 5 5 5 5 5 = .bit false ∧ singleManchester 10 5 5 5 5 = .badSample
      ∧ singleManchester 10 4 10000 4 4 = .bit false ∧ singleManchester 7 4 10000 4 4 = .badSample
      ∧ singleManchester 5 4 4 4 4 = .bit false ∧ singleManchester 7 100 50 60 40 = .bit true := by decide

/-- R106: the run ends at its fourth pair, whose samples stay (as trace M2). -/
theorem test_feDemod_run_over_the_tail :
    demodPass Params.default 10 0 (preambleSignal 10000 4 ++ [10000, 4, 4, 10000, 4, 4, 4, 4]) =
      some (List.replicate 16 253 ++ [1, 0, 0, 255, 254, 254, 4, 4]) := by decide +kernel

/-- R105: after the forced bit the next pair is accepted (as trace M1). -/
theorem test_feDemod_forced_bits :
    demodPass Params.default 10 1 (preambleSignal 10000 4 ++ [10000, 4, 4, 10000, 4, 4, 4, 4, 4, 4]) =
      some (List.replicate 16 253 ++ [1, 0, 0, 0, 0, 254, 254, 254, 254, 254]) := by decide +kernel

/-- R229: TAIL_DECODE = 1, ALLOWED_ERRORS = 0, MARK_BADSAMPLE = 256. -/
theorem test_feDemod_hang :
    runIn .feDemod hung = some hung := by decide +kernel

/-- 95_test_vectors.md F5, F6. -/
theorem test_feFrame_lengths :
    framePass 1 10 (300 :: ((RawFrame.bits ⟨d4, .short⟩).take 55).map bitWord ++ [300]) =
      ([⟨[0x20, 0x00, 0x18, 0x38, 0x59, 0xC3, 0x8C], .short⟩], 0)
      ∧ framePass 1 10 (300 :: ((RawFrame.bits ⟨d4, .short⟩).take 54).map bitWord ++ [300]) = ([], 0) := by decide +kernel

/-- 95_test_vectors.md F11, F8, F9. -/
theorem test_feFrame_filter :
    framePass 1 0 ((RawFrame.bits ⟨d4, .short⟩).map bitWord) = ([], 1) ∧ framePass 1 10 (List.replicate 20 0) = ([], 0)
      ∧ framePass 1 10 (List.replicate 7 0 ++ 1 :: List.replicate 48 0) = ([⟨[1, 0, 0, 0, 0, 0, 0], .short⟩], 0) := by decide +kernel

/-- 95_test_vectors.md Q5: FQ full. -/
theorem test_feEmit_holds :
    runIn .feEmit full = some full := by decide +kernel

theorem test_feEmit_done :
    (runIn .feEmit { running with fePhase := .emit, blkLen := some 2, mem := [(0, 5)] }).map (fun s => (s.fePhase, s.blkLen, s.counters.blkDone)) =
      some (.idle, none, 1) := by decide

theorem test_feHalt :
    (runIn .feHalt { running with runState := .stopping, iq := [[1], [2]] }).map
      (fun s => (s.fq, s.iq, s.counters.blkDiscard, s.fePhase)) = some ([.endMark], [], 2, .halted) := by decide

/-! ### The decode engine -/

theorem test_deTake :
    (runIn .deTake { running with runState := .stopping, fePhase := .halted, fq := [.endMark] }).map (fun s => (s.runState, s.dePhase)) =
      some (.halted, .halted)
      ∧ (runIn .deTake { running with fq := [.frame ⟨d4, .short⟩, .endMark] }).map (fun s => (s.frame, s.dePhase, s.fq)) =
        some (some ⟨d4, .short⟩, .decode, [.endMark]) := by decide +kernel

theorem test_deEmit :
    (runIn .deEmit { running with dePhase := .emit, msg := some DecodedMessage.blank }).map (fun s => (s.oq, s.msg, s.dePhase)) =
      some ([DecodedMessage.blank], none, .idle) := by decide

/-- 95_test_vectors.md X1, X15. -/
theorem test_deDecode_direct :
    ((runIn .deDecode (decoding ⟨frameK, .long⟩)).bind (·.msg)).map (fun m => (m.status, m.addr, m.tc, m.flight)) =
      some (.directOk, 0x4840D6, 4, ['K', 'L', 'M', '1', '0', '2', '3', ' '])
      ∧ (runIn .deDecode (decoding ⟨frameK, .long⟩)).map (·.cache) = some [(518, { valid := true, addr := 0x4840D6, ts := 5 })] := by decide +kernel

/-- 95_test_vectors.md 1.3. -/
theorem test_deDecode_two_flips :
    ((runIn .deDecode { decoding ⟨flipBits frameK [5, 77], .long⟩ with cfg := 0x0007050A }).bind (·.msg)).map
      (fun m => (m.status, m.syndrome, m.errBit0, m.errBit1, m.msg == frameK)) = some (.fixed2, 0xA607E9, some 5, some 77, true) := by decide +kernel

/-- 95_test_vectors.md 1.3: the counterexample of C3. -/
theorem test_deDecode_four_flips_miscorrected :
    ((runIn .deDecode { decoding ⟨flipBits frameK [5, 41, 91, 6], .long⟩ with cfg := 0x0007050A }).bind (·.msg)).map
      (fun m => (m.errBit0, m.errBit1, m.addr)) = some (some 10, some 12, 0x6040D6) := by decide +kernel

/-- 95_test_vectors.md X3. -/
theorem test_deDecode_class_as_received :
    (runIn .deDecode (decoding ⟨flipBits frameK [2], .long⟩)).map (fun s => (s.counters.msgFail, s.dePhase)) = some (1, .idle) := by decide +kernel

theorem test_df17 :
    runIn (.df17 5) (decoding ⟨frameK, .long⟩) = runIn .deDecode (decoding ⟨frameK, .long⟩)
      ∧ runIn (.df17 4) (decoding ⟨frameK, .long⟩) = some (decoding ⟨frameK, .long⟩) := by decide +kernel

/-- 95_test_vectors.md X6. -/
theorem test_df11 :
    ((runIn (.df11 5) (decoding ⟨flipBits d11 [30], .short⟩)).bind (·.msg)).map (fun m => (m.status, m.errBit0, m.syndrome)) =
      some (.fixed1, some 30, 0x001C1B) := by decide +kernel

/-- 95_test_vectors.md H4, H5, X16. -/
theorem test_df4_age :
    ((runIn (.df4 0) { decoding ⟨d4, .short⟩ with cache := recorded 0x4840D6, nowIn := [65] }).bind (·.msg)).map
        (fun m => (m.status, m.addr, m.alt, m.altValid, m.drValid)) = some (.apRecovered, 0x4840D6, 38000, true, true)
      ∧ (runIn (.df4 0) { decoding ⟨d4, .short⟩ with cache := recorded 0x4840D6, nowIn := [66] }).map (·.counters.msgFail) = some 1 := by decide +kernel

/-- 95_test_vectors.md X19. -/
theorem test_df5 :
    ((runIn (.df5 0) { decoding ⟨[0x28, 0x00, 0x1C, 0x09, 0xDC, 0xB3, 0x44], .short⟩ with cache := recorded 0xABCDEF }).bind (·.msg)).map (·.squawk) = some 1234 := by decide +kernel

/-- 95_test_vectors.md X20. -/
theorem test_df20 :
    ((runIn (.df20 0) { decoding ⟨[0xA0, 0x00, 0x01, 0x70, 0x00, 0x00, 0x00, 0x00, 0x00, 0x00, 0x00, 0x27, 0x48, 0x17], .long⟩ with cache := recorded 0x4840D6 }).bind (·.msg)).map
      (fun m => (m.altValid, m.altUnit)) = some (false, .meters) := by decide +kernel

/-- 95_test_vectors.md X12, X14. -/
theorem test_df1_and_df22 :
    ((runIn (.df1 0) (decoding ⟨[0x08, 0x00, 0x00, 0x00, 0xA0, 0x1E, 0x91], .short⟩)).bind (·.msg)).map (fun m => (m.status, m.addrKind)) = some (.directOk, .none)
      ∧ ((runIn (.df22 0) (decoding ⟨[0xB0, 0x00, 0x00, 0x00, 0x00, 0x00, 0x00, 0x00, 0x00, 0x00, 0x00, 0xB0, 0x59, 0x2B], .long⟩)).bind (·.msg)).map (·.status) = some .directOk := by decide +kernel

theorem test_meTc4 :
    runIn (.meTc4 0) (decoding ⟨frameK, .long⟩) = runIn .deDecode (decoding ⟨frameK, .long⟩)
      ∧ runIn (.meTc3 0) (decoding ⟨frameK, .long⟩) = some (decoding ⟨frameK, .long⟩) := by decide +kernel

/-- 46_field_decoder.md R184. -/
theorem test_meTc11 :
    ((runIn (.meTc11 0) (decoding ⟨[0x8D, 0x40, 0x62, 0x1D, 0x58, 0xC3, 0x82, 0xD6, 0x90, 0xC8, 0xAC, 0x28, 0x63, 0xA7], .long⟩)).bind (·.msg)).map
      (fun m => (m.addr, m.alt, m.cprT, m.cprF, m.cprLat, m.cprLon)) = some (0x40621D, 38000, 0, 0, 93000, 51372) := by decide +kernel

/-- 95_test_vectors.md X17. -/
theorem test_meTc19St1 :
    ((runIn .meTc19St1 (decoding ⟨[0x8D, 0x48, 0x50, 0x20, 0x99, 0x44, 0x09, 0x94, 0x08, 0x38, 0x17, 0x5B, 0x28, 0x4F], .long⟩)).bind (·.msg)).map
      (fun m => ([m.ewDir, m.nsDir, m.vrSrc, m.vrSign], [m.ew, m.ns], m.vr, [m.speed, m.track])) =
      some ([1, 1, 0, 1], [9, 160], 14, [160, 184]) := by decide +kernel

theorem test_meTc5_header_only :
    ((runIn (.meTc5 2) (decoding (frameOfByte4 0x2A))).bind (·.msg)).map (fun m => (m.tc, m.st, m.posValid, m.flightValid)) =
      some (5, 2, false, false) := by decide +kernel

/-! ### The checksum and the cache -/

/-- The table of R139. -/
theorem test_weights_table :
    crcWeights 112 =
      [0x3935EA, 0x1C9AF5, 0xF1B77E, 0x78DBBF, 0xC397DB, 0x9E31E9, 0xB0E2F0, 0x587178]
        ++ [0x2C38BC, 0x161C5E, 0x0B0E2F, 0xFA7D13, 0x82C48D, 0xBE9842, 0x5F4C21, 0xD05C14]
        ++ [0x682E0A, 0x341705, 0xE5F186, 0x72F8C3, 0xC68665, 0x9CB936, 0x4E5C9B, 0xD8D449]
        ++ [0x939020, 0x49C810, 0x24E408, 0x127204, 0x093902, 0x049C81, 0xFDB444, 0x7EDA22]
        ++ [0x3F6D11, 0xE04C8C, 0x702646, 0x381323, 0xE3F395, 0x8E03CE, 0x4701E7, 0xDC7AF7]
        ++ [0x91C77F, 0xB719BB, 0xA476D9, 0xADC168, 0x56E0B4, 0x2B705A, 0x15B82D, 0xF52612]
        ++ [0x7A9309, 0xC2B380, 0x6159C0, 0x30ACE0, 0x185670, 0x0C2B38, 0x06159C, 0x030ACE]
        ++ [0x018567, 0xFF38B7, 0x80665F, 0xBFC92B, 0xA01E91, 0xAFF54C, 0x57FAA6, 0x2BFD53]
        ++ [0xEA04AD, 0x8AF852, 0x457C29, 0xDD4410, 0x6EA208, 0x375104, 0x1BA882, 0x0DD441]
        ++ [0xF91024, 0x7C8812, 0x3E4409, 0xE0D800, 0x706C00, 0x383600, 0x1C1B00, 0x0E0D80]
        ++ [0x0706C0, 0x038360, 0x01C1B0, 0x00E0D8, 0x00706C, 0x003836, 0x001C1B, 0xFFF409]
        ++ [0x800000, 0x400000, 0x200000, 0x100000, 0x080000, 0x040000, 0x020000, 0x010000]
        ++ [0x008000, 0x004000, 0x002000, 0x001000, 0x000800, 0x000400, 0x000200, 0x000100]
        ++ [0x000080, 0x000040, 0x000020, 0x000010, 0x000008, 0x000004, 0x000002, 0x000001] := by decide +kernel

/-- 44_crc_correction.md R139, 45_icao_cache.md R158. -/
theorem test_crc_of_K :
    crc 112 frameK = 0x576098 ∧ syndrome 112 frameK = 0 ∧ syndrome 56 d4 = 0x4840D6 := by decide +kernel

/-- The table of R155. -/
theorem test_slots :
    cacheSlot Params.default 0 = 0 ∧ cacheSlot Params.default 1 = 935 ∧ cacheSlot Params.default 0x4840D6 = 518
      ∧ cacheSlot Params.default 0x40621D = 449 ∧ cacheSlot Params.default 0x485020 = 504
      ∧ cacheSlot Params.default 0xABCDEF = 675 ∧ cacheSlot Params.default 0xFFFFFF = 265 := by decide +kernel

/-- 95_test_vectors.md M10 (A28). -/
theorem test_abandoned_stride :
    (candidate (List.replicate 40 0) 0).abandoned = true
      ∧ (candidate (List.replicate 40 0) 0).q + Params.default.resumeSkip = 8
      ∧ (candidate (List.replicate 40 0) 32).q + Params.default.resumeSkip = 40 := by decide +kernel

/-- R154, R155: another hash at one address. -/
theorem test_other_hash :
    cacheSlot { Params.default with hash := [(0x4840D6, 0x80000407)] } 0x4840D6 = 7
      ∧ cacheSlot { Params.default with hash := [(0x4840D6, 0x80000407)] } 0x40621D = 449 := by decide +kernel

/-- 95_test_vectors.md H6. -/
theorem test_age_wraps :
    cacheSeen Params.default (cacheRecord Params.default [] 0x4840D6 0xFFFFFFF0) 0x4840D6 0x10 = true := by decide +kernel

/-! ### Witnesses: a state and operands that meet the hypotheses of each obligation -/

theorem witness_DecodeOfEncode :
    (Instr.cfgWrite 255 0 1 0 1 0).wellFormed = true ∧ (Instr.submit [1, 2]).wellFormed = true := by decide

theorem witness_EncodeOfDecode :
    decode (.txn 0x7F00000001 []) = .ok (.wrOther 63 1) := by decide

theorem witness_MalformedRefused :
    paramsOk State.reset.params = true ∧ { State.reset with agenda := [.run (.txn 0x0100000001 [])] }.agenda = .run (.txn 0x0100000001 []) :: []
      ∧ ((0x0100000001 : Txn).extractLsb' 38 2 = 0#2 ∧ (0x0100000001 : Txn).extractLsb' 0 32 ≠ 0#32)
      ∧ ((0xC100000000 : Txn).extractLsb' 38 2 = 3#2 ∧ (0xC100000000 : Txn).extractLsb' 32 6 ≠ 0#6)
      ∧ (0x8000000001 : Txn).extractLsb' 38 2 = 2#2 ∧ ([] : List Byte).length ≠ ((0x8000000001 : Txn).extractLsb' 0 32).toNat := ⟨by decide +kernel, rfl, by decide, by decide, by decide⟩

theorem witness_StepRunsDecoded :
    paramsOk State.reset.params = true ∧ { State.reset with agenda := [.run (.label 0x12), .rst] }.agenda = .run (.label 0x12) :: [.rst]
      ∧ decode (.label 0x12) = .ok .feDemod := by decide +kernel

theorem witness_SilentSteps_rest :
    paramsOk State.reset.params = true ∧ State.reset.agenda = [] ∧ ∀ i, ¬ StepEnabled i State.reset := ⟨by decide +kernel, rfl, not_enabled_of_next rfl rfl⟩

theorem witness_SilentSteps_one :
    StepEnabled .feMag taken ∧ (∀ j, StepEnabled j taken → j = .feMag) ∧ taken.agenda = [] ∧ paramsOk taken.params = true := ⟨.feMag _ rfl, enabled_fe_of_next rfl rfl, rfl, by decide +kernel⟩

theorem witness_SilentSteps_two :
    StepEnabled .feMag { taken with dePhase := .decode } ∧ StepEnabled .deDecode { taken with dePhase := .decode }
      ∧ Instr.feMag ≠ .deDecode := ⟨.feMag _ rfl, .deDecode _ rfl, by decide⟩

theorem witness_SilentSteps_same_agent :
    StepEnabled .feMag taken ∧ agentOf .feMag = agentOf .feMag := ⟨.feMag _ rfl, rfl⟩

/-- FQ and OQ full: FE_EMIT and DE_EMIT hold. -/
theorem witness_HeldStepsChangeNothing :
    ¬ StepEnabled .feEmit full ∧ ¬ StepEnabled .deEmit full := ⟨not_enabled_of_next rfl rfl _, not_enabled_of_next rfl rfl _⟩

theorem witness_NoInstructionStops :
    paramsOk State.reset.params = true := by decide +kernel

theorem witness_RegisterPort :
    (14#6 = 14 ∧ 15 ≤ (15#6).toNat ∧ 15 ≤ (63#6).toNat) ∧ (1#6 ≠ 0 ∧ 1#6 ≠ 2) ∧ 3#6 ≠ 2 := by decide

theorem witness_StatusFields :
    full.Inv := full_inv

theorem witness_Commands :
    ((0 : W32) ≠ 1 ∧ (0 : W32) ≠ 2 ∧ (0 : W32) ≠ 3) ∧ (4 : W32) ≠ 1 ∧ (4 : W32) ≠ 2 ∧ (4 : W32) ≠ 3 := by decide

theorem witness_ResetSequence :
    paramsOk running.params = true ∧ { running with agenda := [.rst] }.agenda = .rst :: [] := by decide +kernel

theorem witness_PortIdempotent :
    exec (decodeRegWrite 2 5) running = .next { running with fault := 4 } ∧ exec (.rdR 3) running = .next { running with resp := .value 0 } := ⟨rfl, rfl⟩

theorem witness_SubmitBlock :
    (running.runState = .running ∧ { running with iq := List.replicate 7 [] }.iq.length < running.params.iqCap)
      ∧ ¬ ({ running with iq := List.replicate 8 [] }.iq.length < running.params.iqCap) ∧ State.reset.runState ≠ .running := by decide

theorem witness_PopMessage :
    State.reset.oq = [] ∧ full.oq = DecodedMessage.blank :: List.replicate 7 DecodedMessage.blank := by decide +kernel

theorem witness_Ownership :
    (agentOf .pop = .host ∧ Instr.pop ≠ .wr0Reset ∧ Instr.pop ≠ .reset ∧ Instr.pop.wellFormed = true
        ∧ exec .pop running = .next { running with resp := .empty })
      ∧ (agentOf .feTake = .fe ∧ exec .feTake { running with iq := [[]] } = .next { running with runState := .stopping })
      ∧ agentOf .deTake = .de ∧ exec .deTake { running with fq := [.frame ⟨d4, .short⟩] } =
          .next { running with frame := some ⟨d4, .short⟩, dePhase := .decode } := ⟨⟨rfl, by decide, by decide, rfl, rfl⟩, ⟨rfl, rfl⟩, rfl, rfl⟩

/-- With MAX_BLOCK_BYTES = 4: the sentinel, odd, odd and oversize, oversize by one pair, the largest and the smallest block. -/
theorem witness_TakeBlock :
    (running.fePhase = .idle ∧ running.runState = .running)
      ∧ (∀ x ∈ [[], [1], List.replicate 5 1, List.replicate 6 1, List.replicate 4 1, [1, 2]],
          ({ running with iq := [x] }).iq = x :: [])
      ∧ ([1] : List Byte).length % 2 = 1 ∧ (List.replicate 5 (1 : Byte)).length % 2 = 1
      ∧ ((List.replicate 6 (1 : Byte)).length % 2 = 0 ∧ 4 < (List.replicate 6 (1 : Byte)).length)
      ∧ ((List.replicate 4 (1 : Byte)).length % 2 = 0 ∧ (List.replicate 4 (1 : Byte)).length ≤ 4)
      ∧ ([1, 2] : List Byte) ≠ [] := by decide +kernel

theorem witness_Magnitudes :
    taken.fePhase = .mag ∧ taken.mem.wf ∧ taken.blkLen = some 4 ∧ 4 % 2 = 0 ∧ 1 < 4 / 2 ∧ 4 ≤ 4 := by decide +kernel

theorem witness_MagnitudeLanes :
    taken.fePhase = .mag ∧ taken.mem.wf ∧ taken.blkLen = some 4 ∧ 4 % 2 = 0 ∧ [1, 0].Perm (List.range (4 / 2)) := by decide +kernel

theorem witness_BitDecisions :
    ∀ q ∈ [1#8, 4, 6, 9, 11, 255], q ≠ 0 ∧ q ≠ 5 ∧ q ≠ 10 := by decide

/-- Within a budget of 1 and past a budget of 0. -/
theorem witness_PairOutcome :
    (firstPair.mode = .decode ∧ firstPair.i2 ≤ firstPair.i ∧ firstPair.i + 1 < ([4, 9, 9, 4] : List W16).length)
      ∧ singleManchester 10 9 4 9 4 = .bit true
      ∧ singleManchester 10 5 5 5 5 = .badSample ∧ firstPair.errors + 1 ≤ 1 ∧ 0 < firstPair.errors + 1 := by decide +kernel

theorem witness_DemodEnds :
    (magnituded.fePhase = .demod ∧ magnituded.params.tailDecode = false ∧ magnituded.mem.wf ∧ magnituded.blkLen = some 256
        ∧ 256 % 2 = 0)
      ∧ (tailed.fePhase = .demod ∧ tailed.params.tailDecode = true ∧ tailed.mem.wf ∧ tailed.blkLen = some 4 ∧ 4 % 2 = 0
        ∧ cfgAllowedErrors tailed.cfg = 0 ∧ cfgQuality tailed.cfg = 10 ∧ tailed.params.markBad ∉ tailed.words
        ∧ demodPass tailed.params (cfgQuality tailed.cfg) (cfgAllowedErrors tailed.cfg) tailed.words = some [1, 254])
      ∧ cfgAllowedErrors 0x0005010A ≠ 0 ∧ cfgQuality 0x00050005 ∈ [0, 5] := by
  refine ⟨⟨rfl, rfl, memory_store_wf memory_wf_nil _, rfl, rfl⟩, ⟨rfl, rfl, ?_, rfl, rfl, ?_⟩, ?_⟩ <;> decide +kernel

theorem witness_PassMarks :
    demodPass Params.default 10 5 [4, 4, 4] = some [4, 4, 4] := by decide +kernel

theorem witness_HangIsReal :
    hung.fePhase = .demod ∧ demodPass hung.params (cfgQuality hung.cfg) (cfgAllowedErrors hung.cfg) hung.words = none
      ∧ demodRun Params.default 10 5 1 DemodRegs.init [4] = some [4] := by decide +kernel

theorem witness_SignalDemodulates :
    (Params.default.seedOffset = 0 ∨ Params.default.seedOffset = 16) ∧ Params.default.tailDecode = false ∧ (0 : W16) < 1
      ∧ [true] ≠ [] := by decide

theorem witness_FramerRecovers :
    RawFrame.Ok ⟨d4, .short⟩ ∧ RawFrame.Ok ⟨frameK, .long⟩ ∧ d4.getD 0 0 ≠ 0 ∧ frameK.getD 0 0 ≠ 0
      ∧ (∀ x ∈ ([2] : List W16) ++ [254], 1 < x) ∧ msgBit frameK 111 = false := ⟨d4_ok, frameK_ok, by decide, by decide, by intro x hx; simp at hx; rcases hx with rfl | rfl <;> decide, by decide +kernel⟩

theorem witness_ReceivePath :
    paramsOk magnituded.params = true ∧ magnituded.params.tailDecode = false ∧ magnituded.fePhase = .demod ∧ magnituded.mem.wf
      ∧ magnituded.blkLen = some 256 ∧ 256 % 2 = 0 ∧ (1 : W16) < 4 ∧ (4 : W16) < 10000 ∧ RawFrame.Ok ⟨d4, .short⟩
      ∧ d4.getD 0 0 ≠ 0
      ∧ magnituded.words = List.replicate 0 4 ++ preambleSignal 10000 4 ++ manchester 10000 4 (RawFrame.bits ⟨d4, .short⟩) := by
  refine ⟨by decide +kernel, rfl, rfl, memory_store_wf memory_wf_nil _, rfl, rfl, by decide, by decide, d4_ok, by decide, ?_⟩
  · have h : (bytesOfWords signal).length = 256 := by decide +kernel
    have h' : magnituded.mem.load 256 = bytesOfWords signal := by
      rw [← h]
      exact memory_load_store memory_wf_nil _
    change wordsOfBytes (magnituded.mem.load 256) = signal
    rw [h', wordsOfBytes_bytesOfWords]

theorem witness_FrameStep :
    { taken with fePhase := .frame }.fePhase = .frame ∧ cfgQuality taken.cfg ≠ 0 ∧ cfgQuality 0x00050500 = 0 := by decide +kernel

theorem witness_ShortRuns :
    (List.replicate 7 true).length < 8
      ∧ (8 ≤ (List.replicate 8 true).length ∧ (∃ k, k < 8 ∧ (List.replicate 8 true).getD k false = true)
        ∧ (List.replicate 8 true).length + 1 < 112)
      ∧ (∃ k, k < 8 ∧ (false :: List.replicate 53 true).getD k false = true)
      ∧ (false :: List.replicate 53 true).length + 1 < 56
      ∧ (∀ b ∈ List.replicate 20 false, b = false)
      ∧ (∀ x ∈ [2#16], 1 < x) ∧ ([0#16, 1].getD 0 0 ≤ 1 ∧ (candidate [0, 1] 0).abandoned = false)
      ∧ (candidate (List.replicate 20 0) 0).abandoned = true := by
  refine ⟨by decide, ⟨by decide, ⟨0, by decide⟩, by decide⟩, ⟨1, by decide⟩, by decide,
    fun _ h => List.eq_of_mem_replicate h, by intro x hx; simp at hx; subst hx; decide, ⟨by decide +kernel, by decide +kernel⟩, by decide +kernel⟩

theorem witness_FrontEndQueueSteps :
    (full.fePhase = .emit ∧ { full with pending := [] }.pending = [])
      ∧ (full.pending = ⟨d4, .short⟩ :: [] ∧ { full with fq := List.replicate 7 (.frame ⟨d4, .short⟩) }.fq.length < full.params.fqCap)
      ∧ { running with runState := .stopping }.fePhase = .idle ∧ running.fq.length < running.params.fqCap := by decide +kernel

theorem witness_DecodeEngineQueueSteps :
    (running.dePhase = .idle ∧ { running with fq := [.endMark] }.fq = .endMark :: []
        ∧ full.fq = .frame ⟨d4, .short⟩ :: List.replicate 7 (.frame ⟨d4, .short⟩))
      ∧ full.dePhase = .emit ∧ full.msg = some DecodedMessage.blank
      ∧ { full with oq := List.replicate 7 DecodedMessage.blank }.oq.length < full.params.oqCap := by decide +kernel

theorem witness_Weights :
    (111 < 112 ∧ 0 < 112) ∧ 55 < 56 ∧ 23 < 24 := by decide

theorem witness_SyndromeLinear :
    frameK.length = FrameLen.long.bytes ∧ d4.length = FrameLen.short.bytes ∧ (∀ j0 ∈ [0, 111, 0], j0 < FrameLen.long.bits)
      ∧ FrameLen.long.bits - 24 ≤ 88 ∧ 88 < FrameLen.long.bits := by decide

theorem witness_SearchesExact :
    (111 < FrameLen.long.bits ∧ 0 < 111) ∧ fixOne 112 1 = some 111 ∧ fixTwo 112 3 = some (110, 111) := by decide +kernel

theorem witness_OneFlipCorrected :
    frameK.length = FrameLen.long.bytes ∧ syndrome 112 frameK = 0
      ∧ (Decodes { decoding ⟨flipBit frameK 111, .long⟩ with cfg := 0x0005050A } ⟨flipBit frameK 111, .long⟩ ∧ DecodesFrame .deDecode ⟨flipBit frameK 111, .long⟩
        ∧ RawFrame.df ⟨flipBit frameK 111, .long⟩ ∈ [11, 17, 18, 19]) ∧ (111 < 112 ∧ cfgFix1 0x0005050A = true) := ⟨by decide, by decide +kernel, ⟨⟨rfl, rfl⟩, .inl rfl, by decide +kernel⟩, by decide +kernel⟩

theorem witness_TwoFlipsCorrected :
    frameK.length = FrameLen.long.bytes ∧ syndrome 112 frameK = 0
      ∧ (Decodes { decoding ⟨flipBit (flipBit frameK 5) 111, .long⟩ with cfg := 0x0007050A } ⟨flipBit (flipBit frameK 5) 111, .long⟩ ∧ DecodesFrame .deDecode ⟨flipBit (flipBit frameK 5) 111, .long⟩
        ∧ RawFrame.df ⟨flipBit (flipBit frameK 5) 111, .long⟩ ∈ [11, 17, 18, 19]) ∧ (5 < 111 ∧ 111 < 112 ∧ cfgFix1 0x0007050A = true ∧ cfgFix2 0x0007050A = true) := ⟨by decide, by decide +kernel, ⟨⟨rfl, rfl⟩, .inl rfl, by decide +kernel⟩, by decide +kernel⟩

theorem witness_ThreeFlipsRejected :
    frameK.length = FrameLen.long.bytes ∧ syndrome 112 frameK = 0
      ∧ (Decodes { decoding ⟨flipBit (flipBit (flipBit frameK 5) 6) 111, .long⟩ with cfg := 0x0007050A } ⟨flipBit (flipBit (flipBit frameK 5) 6) 111, .long⟩ ∧ DecodesFrame .deDecode ⟨flipBit (flipBit (flipBit frameK 5) 6) 111, .long⟩
        ∧ RawFrame.df ⟨flipBit (flipBit (flipBit frameK 5) 6) 111, .long⟩ ∈ [11, 17, 18, 19]) ∧ (5 < 6 ∧ 6 < 111 ∧ 111 < 112 ∧ cfgCrcCheck 0x0007050A = true ∧ cfgCrcCheck 0x0003050A = false) := ⟨by decide, by decide +kernel, ⟨⟨rfl, rfl⟩, .inl rfl, by decide +kernel⟩, by decide +kernel⟩

theorem witness_PiDecode :
    (Decodes (decoding ⟨frameK, .long⟩) ⟨frameK, .long⟩ ∧ DecodesFrame (.df17 5) ⟨frameK, .long⟩
        ∧ RawFrame.df ⟨frameK, .long⟩ ∈ [11, 17, 18, 19] ∧ syndrome 112 frameK = 0)
      ∧ (RawFrame.df ⟨flipBits frameK [111], .long⟩ = 17 ∧ crcT (112 - 1 - 111) = syndrome 112 (flipBits frameK [111]))
      ∧ (RawFrame.df ⟨flipBits frameK [110, 111], .long⟩ = 17
        ∧ crcT (112 - 1 - 110) ^^^ crcT (112 - 1 - 111) = syndrome 112 (flipBits frameK [110, 111]))
      ∧ syndrome 112 (flipBits frameK [40]) ≠ 0 ∧ cfgFix1 0x0004050A = false
      ∧ syndrome 112 (flipBits frameK [5, 6, 7]) ≠ 0 ∧ (∀ j0, j0 < 112 → crcT (112 - 1 - j0) ≠ syndrome 112 (flipBits frameK [5, 6, 7]))
      ∧ cfgFix2 0x0005050A = false := by
  refine ⟨⟨⟨rfl, rfl⟩, .inr rfl, by decide +kernel, by decide +kernel⟩, by decide +kernel, by decide +kernel, by decide +kernel,
    by decide, by decide +kernel, by decide +kernel, by decide⟩

/-- Age 60 is seen, age 61 is not. -/
theorem witness_ApDecode :
    (Decodes { decoding ⟨d4, .short⟩ with cache := recorded 0x4840D6, nowIn := [65] } ⟨d4, .short⟩
        ∧ DecodesFrame (.df4 0) ⟨d4, .short⟩ ∧ RawFrame.df ⟨d4, .short⟩ ∈ [0, 4, 5, 16, 20, 21])
      ∧ (cacheRead (recorded 0x4840D6) (cacheSlot Params.default (syndrome 56 d4)) = ⟨true, syndrome 56 d4, 5⟩
        ∧ (65 - 5 : W32).toNat ≤ 60 ∧ ¬ (66 - 5 : W32).toNat ≤ 60)
      ∧ RawFrame.df ⟨[0xC7, 0, 0, 0, 0, 0, 0, 0, 0, 0, 0, 0, 0, 0], .long⟩ = 24
      ∧ RawFrame.df ⟨[0xF8, 0, 0, 0, 0, 0, 0, 0, 0, 0, 0, 0, 0, 0], .long⟩ = 31 := by
  refine ⟨⟨⟨rfl, rfl⟩, .inr rfl, by decide +kernel⟩, by decide +kernel, by decide, by decide⟩

theorem witness_OtherDecode :
    (Decodes (decoding ⟨[0x08, 0x00, 0x00, 0x00, 0xA0, 0x1E, 0x91], .short⟩) ⟨[0x08, 0x00, 0x00, 0x00, 0xA0, 0x1E, 0x91], .short⟩ ∧ DecodesFrame (.df1 0) ⟨[0x08, 0x00, 0x00, 0x00, 0xA0, 0x1E, 0x91], .short⟩ ∧ syndrome 56 [0x08, 0x00, 0x00, 0x00, 0xA0, 0x1E, 0x91] = 0)
      ∧ RawFrame.df ⟨[0x08, 0x00, 0x00, 0x00, 0xA0, 0x1E, 0x91], .short⟩ = 1 ∧ syndrome 56 (flipBits [0x08, 0x00, 0x00, 0x00, 0xA0, 0x1E, 0x91] [20]) ≠ 0 := by
  refine ⟨⟨⟨rfl, rfl⟩, .inr rfl, by decide +kernel⟩, by decide, by decide +kernel⟩

theorem witness_RowsAreDecode :
    (encode (.df17 5) = .dfByte 0x8D ∧ Decodes (decoding ⟨frameK, .long⟩) ⟨frameK, .long⟩ ∧ frameK.getD 0 0 = 0x8D)
      ∧ (encode (.meTc4 0) = .meByte 0x20 ∧ frameK.getD 4 0 = 0x20)
      ∧ (let s := decoding ⟨frameK, .long⟩
         (validate s ⟨frameK, .long⟩ s.now).emitted s.cfg = true ∧ msgBits (validate s ⟨frameK, .long⟩ s.now).m 1 5 = 17
          ∧ (validate s ⟨frameK, .long⟩ s.now).m.getD 4 0 = 0x20)
      ∧ ∀ f, ¬ Decodes State.reset f := by
  refine ⟨⟨rfl, ⟨rfl, rfl⟩, by decide⟩, ⟨rfl, by decide⟩, by decide +kernel, fun f h => ?_⟩
  exact absurd h.1 (by decide)

/-- The boundary types of the range, each with a frame of syndrome 0, and the first with its last bit flipped, corrected and failed. -/
theorem witness_Identification :
    (∀ b ∈ [0b00001_000#8, 0b00100_111], (frameOfByte4 b).len = .long ∧ (frameOfByte4 b).bytes.length = 14 ∧ (frameOfByte4 b).df = 17
        ∧ syndrome 112 (frameOfByte4 b).bytes = 0 ∧ (frameOfByte4 b).bytes.getD 4 0 = b
        ∧ encode (decodeMe b) = .meByte ((frameOfByte4 b).bytes.getD 4 0))
      ∧ (∀ b, Decodes (decoding (frameOfByte4 b)) (frameOfByte4 b))
      ∧ ∀ b ∈ [0b00001_000#8],
        recordOf (exec (decodeMe b) (decoding (oneFlip b))) = some (.fixed1, 17, b)
          ∧ recordOf (exec .deDecode { decoding (oneFlip b) with cfg := 0 }) = some (.failed, 17, b) := ⟨by decide +kernel, fun _ => ⟨rfl, rfl⟩, by decide +kernel⟩

/-- The boundary types of the range, each with a frame of syndrome 0, and the first with its last bit flipped, corrected and failed. -/
theorem witness_AirbornePosition :
    (∀ b ∈ [0b01001_000#8, 0b10010_111], (frameOfByte4 b).len = .long ∧ (frameOfByte4 b).bytes.length = 14 ∧ (frameOfByte4 b).df = 17
        ∧ syndrome 112 (frameOfByte4 b).bytes = 0 ∧ (frameOfByte4 b).bytes.getD 4 0 = b
        ∧ encode (decodeMe b) = .meByte ((frameOfByte4 b).bytes.getD 4 0))
      ∧ (∀ b, Decodes (decoding (frameOfByte4 b)) (frameOfByte4 b))
      ∧ ∀ b ∈ [0b01001_000#8],
        recordOf (exec (decodeMe b) (decoding (oneFlip b))) = some (.fixed1, 17, b)
          ∧ recordOf (exec .deDecode { decoding (oneFlip b) with cfg := 0 }) = some (.failed, 17, b) := ⟨by decide +kernel, fun _ => ⟨rfl, rfl⟩, by decide +kernel⟩

/-- The boundary types of the range, each with a frame of syndrome 0, and the first with its last bit flipped, corrected and failed. -/
theorem witness_VelocityMessage :
    (∀ b ∈ [0b10011_001#8, 0b10011_010], (frameOfByte4 b).len = .long ∧ (frameOfByte4 b).bytes.length = 14 ∧ (frameOfByte4 b).df = 17
        ∧ syndrome 112 (frameOfByte4 b).bytes = 0 ∧ (frameOfByte4 b).bytes.getD 4 0 = b
        ∧ encode (decodeMe b) = .meByte ((frameOfByte4 b).bytes.getD 4 0))
      ∧ (∀ b, Decodes (decoding (frameOfByte4 b)) (frameOfByte4 b))
      ∧ ∀ b ∈ [0b10011_001#8],
        recordOf (exec (decodeMe b) (decoding (oneFlip b))) = some (.fixed1, 17, b)
          ∧ recordOf (exec .deDecode { decoding (oneFlip b) with cfg := 0 }) = some (.failed, 17, b) := ⟨by decide +kernel, fun _ => ⟨rfl, rfl⟩, by decide +kernel⟩

/-- The boundary types of the range, each with a frame of syndrome 0, and the first with its last bit flipped, corrected and failed. -/
theorem witness_HeaderOnlyMessage :
    (∀ b ∈ [0b00000_000#8, 0b00101_000, 0b01000_111, 0b10100_000, 0b11111_111, 0b10011_000, 0b10011_011, 0b10011_111], (frameOfByte4 b).len = .long ∧ (frameOfByte4 b).bytes.length = 14 ∧ (frameOfByte4 b).df = 17
        ∧ syndrome 112 (frameOfByte4 b).bytes = 0 ∧ (frameOfByte4 b).bytes.getD 4 0 = b
        ∧ encode (decodeMe b) = .meByte ((frameOfByte4 b).bytes.getD 4 0))
      ∧ (∀ b, Decodes (decoding (frameOfByte4 b)) (frameOfByte4 b))
      ∧ ∀ b ∈ [0b00000_000#8],
        recordOf (exec (decodeMe b) (decoding (oneFlip b))) = some (.fixed1, 17, b)
          ∧ recordOf (exec .deDecode { decoding (oneFlip b) with cfg := 0 }) = some (.failed, 17, b) := ⟨by decide +kernel, fun _ => ⟨rfl, rfl⟩, by decide +kernel⟩

theorem witness_AirbornePosition_q :
    msgBits [0x8D, 0x40, 0x62, 0x1D, 0x58, 0xC3, 0x82, 0xD6, 0x90, 0xC8, 0xAC, 0x28, 0x63, 0xA7] 48 48 = 1 ∧ msgBits (frameOfByte4 0b01001_000).bytes 48 48 = 0 := by decide +kernel

/-- A record of each group of formats, with CRC_CHECK_EN off. -/
theorem witness_RecordFields :
    Decodes (decoding ⟨d4, .short⟩) ⟨d4, .short⟩ ∧ DecodesFrame (.df4 0) ⟨d4, .short⟩
      ∧ ∀ b ∈ [0x00#8, 0x20, 0x28, 0x80, 0xA0, 0xA8, 0x58, 0xF8],
        ((nextOf (exec .deDecode { decoding (frameOfByte0 b) with cfg := 0 })).bind (·.msg)).map (·.msg.getD 0 0) = some b := ⟨⟨rfl, rfl⟩, .inr rfl, by decide +kernel⟩

theorem witness_RecordGuards :
    agentOf (.df17 5) = .de ∧ Instr.df17 5 ≠ .deEmit ∧ Instr.df17 5 ≠ .deTake ∧ Decodes (decoding ⟨frameK, .long⟩) ⟨frameK, .long⟩
      ∧ RawFrame.Ok ⟨frameK, .long⟩ ∧ (decoding ⟨frameK, .long⟩).msg = none
      ∧ ((nextOf (exec (.df17 5) (decoding ⟨frameK, .long⟩))).bind (·.msg)).isSome = true := ⟨rfl, by decide, by decide, ⟨rfl, rfl⟩, frameK_ok, rfl, by decide +kernel⟩

theorem witness_SpeedTrack :
    (1#10 ≠ 0 ∧ 1023#10 ≠ 0) ∧ (0#10 = 0) := by decide

theorem witness_CacheOperations :
    Params.default.cacheLen = 2 ^ 10 ∧ sparseWf CacheSlot.empty (recorded 0x4840D6)
      ∧ (0 : Nat) ≠ cacheSlot Params.default 0x4840D6
      ∧ (0x00A9 : W24) ≠ 0x4840D6 ∧ cacheSlot { Params.default with cacheLen := 2 ^ 0 } 0xA9 = cacheSlot { Params.default with cacheLen := 2 ^ 0 } 0x4840D6
      ∧ cacheSlot Params.default 0x40621D ≠ cacheSlot Params.default 0x4840D6 := by decide +kernel

theorem witness_CacheChanges :
    nextOf (step (decoding ⟨frameK, .long⟩)) ≠ none ∧ Decodes (decoding ⟨frameK, .long⟩) ⟨frameK, .long⟩
      ∧ RunsIn .deDecode (decoding ⟨frameK, .long⟩) { decoding ⟨frameK, .long⟩ with agenda := [.run (.label 0x21)] } := ⟨by decide +kernel, ⟨rfl, rfl⟩, .inl ⟨_, _, rfl, rfl, rfl⟩⟩

/-- A state with every queue full and both agents holding. -/
theorem witness_InvariantKept :
    full.Inv ∧ nextOf (step full) = some full := ⟨full_inv, by decide +kernel⟩

theorem witness_RunStateTransitions :
    halted.Inv ∧ halted.runState = .halted ∧ NextResets { halted with agenda := [.rst] }
      ∧ (nextOf (step { State.reset with agenda := [.run (.txn 0x4000000001 [])] })).map (·.runState) = some .running := ⟨halted_inv, rfl, .inl ⟨[], rfl⟩, by decide +kernel⟩

theorem witness_QueuesAreFifo :
    nextOf (step { running with iq := [[]] }) = some { running with runState := .stopping } ∧ ¬ NextResets { running with iq := [[]] } := by
  refine ⟨by decide +kernel, ?_⟩
  rintro (⟨rest, h⟩ | ⟨e, rest, h, -⟩ | ⟨e, rest, h, -⟩) <;> exact absurd h (by simp [running, State.reset])

theorem witness_FaultsSticky :
    nextOf (step { running with iq := [[1]] }) = some { running with fault := 1, counters := { Counters.zero with blkDiscard := 1 } }
      ∧ ¬ NextResets { running with iq := [[1]] } := by
  refine ⟨by decide +kernel, ?_⟩
  rintro (⟨rest, h⟩ | ⟨e, rest, h, -⟩ | ⟨e, rest, h, -⟩) <;> exact absurd h (by simp [running, State.reset])

theorem witness_HashIsParameter :
    Params.default.hash = [] ∧ Params.default.cacheLen = 1024 ∧ Params.default.cacheLen ≤ 2 ^ 24
      ∧ ∀ a : W24, (fun _ => 7 : W24 → Nat) a < Params.default.cacheLen := ⟨rfl, rfl, by decide, fun _ => (by decide : (7 : Nat) < 1024)⟩

end Sys2Proof.Tests
end

section
/-! The scope of the block (00_scope.md): held steps, no instruction stops the block, the rows of the opcode table as DE_DECODE, and
ICAO_HASH as a parameter. -/

namespace Sys2Proof.Machine

/-! ### The enabling tests of the steps -/

/-- A step whose test fails holds (R10). -/
theorem whenEnabled_of_not {e : Bool} {f : State → State} {s : State} (h : ¬ e = true) : whenEnabled e f s = .next s :=
  whenEnabled_next.2 (if_neg h).symm

theorem feTakeEnabled_iff {s : State} : feTakeEnabled s = true ↔ StepEnabled .feTake s := by
  simp only [feTakeEnabled, decide_eq_true_eq]
  exact ⟨fun ⟨hp, hr, hq⟩ => .feTake s hp hr hq, fun | .feTake _ hp hr hq => ⟨hp, hr, hq⟩⟩

theorem feEmitEnabled_iff {s : State} : feEmitEnabled s = true ↔ StepEnabled .feEmit s := by
  simp only [feEmitEnabled, State.fqRoom, Bool.and_eq_true, Bool.or_eq_true, decide_eq_true_eq]
  exact ⟨fun ⟨hp, hq⟩ => .feEmit s hp hq, fun | .feEmit _ hp hq => ⟨hp, hq⟩⟩

theorem feHaltEnabled_iff {s : State} : feHaltEnabled s = true ↔ StepEnabled .feHalt s := by
  simp only [feHaltEnabled, State.fqRoom, Bool.and_eq_true, decide_eq_true_eq]
  exact ⟨fun ⟨⟨hp, hr⟩, hq⟩ => .feHalt s hp hr hq, fun | .feHalt _ hp hr hq => ⟨⟨hp, hr⟩, hq⟩⟩

theorem deTakeEnabled_iff {s : State} : deTakeEnabled s = true ↔ StepEnabled .deTake s := by
  simp only [deTakeEnabled, decide_eq_true_eq]
  exact ⟨fun ⟨hp, hq⟩ => .deTake s hp hq, fun | .deTake _ hp hq => ⟨hp, hq⟩⟩

theorem deEmitEnabled_iff {s : State} : deEmitEnabled s = true ↔ StepEnabled .deEmit s := by
  simp only [deEmitEnabled, State.oqRoom, Bool.and_eq_true, decide_eq_true_eq]
  exact ⟨fun ⟨hp, hq⟩ => .deEmit s hp hq, fun | .deEmit _ hp hq => ⟨hp, hq⟩⟩

/-- DE_DECODE holds outside its phase: DE has no frame in hand there (R138). -/
theorem execDeDecode_of_not_enabled {s : State} (h : ¬ StepEnabled .deDecode s) : execDeDecode s = .next s := by
  obtain ⟨f, hf, -⟩ | ⟨-, hx⟩ := execDeDecode_cases s
  · exact absurd (.deDecode s (frameInHand_eq_some.1 hf).1) h
  · exact hx

/-- Settles O7: each step is its effect under its own test, and the test is the step's enabling condition. -/
theorem heldStepsChangeNothing : Obligations.HeldStepsChangeNothing := by
  unfold Obligations.HeldStepsChangeNothing
  intro s i hi hn
  simp only [List.mem_cons, List.not_mem_nil, or_false] at hi
  rcases hi with rfl | rfl | rfl | rfl | rfl | rfl | rfl | rfl | rfl
  · exact whenEnabled_of_not (mt feTakeEnabled_iff.1 hn)
  · exact whenEnabled_of_not fun h => hn (.feMag s (of_decide_eq_true h))
  · exact whenEnabled_of_not fun h => hn (.feDemod s (of_decide_eq_true h))
  · exact whenEnabled_of_not fun h => hn (.feFrame s (of_decide_eq_true h))
  · exact whenEnabled_of_not (mt feEmitEnabled_iff.1 hn)
  · exact whenEnabled_of_not (mt feHaltEnabled_iff.1 hn)
  · exact whenEnabled_of_not (mt deTakeEnabled_iff.1 hn)
  · exact execDeDecode_of_not_enabled hn
  · exact whenEnabled_of_not (mt deEmitEnabled_iff.1 hn)

/-! ### The rows of the opcode table by their encoded form -/

/-- The validation of a class (R141). -/
def classValidation : DfClass → State → RawFrame → W32 → Verdict
  | .pi => validatePi
  | .ap => validateAp
  | .other => validateOther

theorem validate_eq_classValidation (s : State) (f : RawFrame) (t : W32) :
    validate s f t = classValidation (dfClass (msgDf f.bytes)) s f t := by
  unfold validate
  cases dfClass (msgDf f.bytes) <;> rfl

/-- The field rule of the ME type tc with subtype st (R168). -/
def meRule (tc : BitVec 5) (st : BitVec 3) : List Byte → DecodedMessage → DecodedMessage :=
  if 1 ≤ tc.toNat ∧ tc.toNat ≤ 4 then identification
  else if 9 ≤ tc.toNat ∧ tc.toNat ≤ 18 then airbornePosition
  else if tc.toNat = 19 ∧ (st.toNat = 1 ∨ st.toNat = 2) then velocity
  else headerOnly

/-- The row a DF byte encodes runs that format under the validation of its class (R74, R141; A9). -/
theorem exec_of_encode_dfByte {i : Instr} {b : Byte} (h : encode i = .dfByte b) (s : State) :
    ∃ (df : BitVec 5) (f3 : BitVec 3), b = (df ++ f3 : BitVec 8)
      ∧ exec i s = runFormat df f3 (classValidation (dfClass df)) s := by
  cases i <;> cases h <;> exact ⟨_, _, rfl, rfl⟩

/-- The row an ME byte encodes runs that ME type under its field rule (R76, R168; A9). -/
theorem exec_of_encode_meByte {i : Instr} {b : Byte} (h : encode i = .meByte b) (s : State) :
    ∃ (tc : BitVec 5) (st : BitVec 3), b = (tc ++ st : BitVec 8) ∧ exec i s = runMe tc st (meRule tc st) s := by
  cases i <;> cases h <;> exact ⟨_, _, rfl, rfl⟩

/-! ### No instruction stops -/

theorem exec_answers_of_txn {i : Instr} {w : Txn} {payload : List Byte} (h : encode i = .txn w payload) (s : State) :
    ∃ t, exec i s = .next t := by
  cases i <;> cases h <;> exact ⟨_, rfl⟩

theorem exec_answers_of_pseudo {i : Instr} {w : Txn} (h : encode i = .pseudo w) (s : State) : ∃ t, exec i s = .next t := by
  cases i <;> cases h <;> exact ⟨_, rfl⟩

theorem execDeDecode_answers (s : State) : ∃ t, execDeDecode s = .next t := by
  obtain ⟨f, -, hx⟩ | ⟨-, hx⟩ := execDeDecode_cases s <;> exact ⟨_, hx⟩

theorem runFormat_answers (df : BitVec 5) (f3 : BitVec 3) (validation : State → RawFrame → W32 → Verdict) (s : State) :
    ∃ t, runFormat df f3 validation s = .next t := by
  obtain ⟨f, -, -, hx⟩ | ⟨-, hx⟩ := runFormat_cases df f3 validation s <;> exact ⟨_, hx⟩

theorem runMe_answers (tc : BitVec 5) (st : BitVec 3) (fields : List Byte → DecodedMessage → DecodedMessage) (s : State) :
    ∃ t, runMe tc st fields s = .next t := by
  obtain ⟨f, -, -, hx⟩ | ⟨-, hx⟩ := runMe_cases tc st fields s <;> exact ⟨_, hx⟩

theorem exec_answers_of_label {i : Instr} {b : Byte} (h : encode i = .label b) (s : State) : ∃ t, exec i s = .next t := by
  cases i <;> cases h
  case deDecode => exact execDeDecode_answers s
  all_goals exact ⟨_, rfl⟩

/-- Every instruction answers a next state (R10, R201, R210). -/
theorem exec_answers (i : Instr) (s : State) : ∃ t, exec i s = .next t := by
  cases he : encode i with
  | txn w payload => exact exec_answers_of_txn he s
  | pseudo w => exact exec_answers_of_pseudo he s
  | label b => exact exec_answers_of_label he s
  | dfByte b =>
    obtain ⟨df, f3, -, hx⟩ := exec_of_encode_dfByte he s
    exact hx ▸ runFormat_answers df f3 _ s
  | meByte b =>
    obtain ⟨tc, st, -, hx⟩ := exec_of_encode_meByte he s
    exact hx ▸ runMe_answers tc st _ s

/-- What is refused is the agenda's next entry, where the decoder refuses it (R64). -/
theorem fetch_eq_refuse {s : State} {err : DecodeError} (h : fetch s = .refuse err) :
    ∃ e rest, s.agenda = .run e :: rest ∧ decode e = .error err := by
  unfold fetch at h
  rcases ha : s.agenda with _ | ⟨e | _, rest⟩ <;> rw [ha] at h
  · cases hf : feNext s <;> cases hd : deNext s <;> simp [hf, hd] at h
  · refine ⟨e, rest, rfl, ?_⟩
    cases hd : decode e with
    | ok i => simp [hd] at h
    | error err' => simpa [hd] using h
  · cases h

/-- Settles O8: exec answers a next state for every row's encoded form, so step can stop in a refused fetch only. -/
theorem noInstructionStops : Obligations.NoInstructionStops := by
  unfold Obligations.NoInstructionStops
  refine ⟨exec_answers, fun s hp => ?_⟩
  unfold step
  rw [if_pos hp]
  cases hf : fetch s with
  | run i u => exact .inl (exec_answers i u)
  | reset u => exact .inl ⟨_, rfl⟩
  | rest => exact .inl ⟨_, rfl⟩
  | refuse err =>
    obtain ⟨e, rest, ha, hd⟩ := fetch_eq_refuse hf
    exact .inr ⟨e, rest, err, ha, hd, rfl⟩

/-! ### The fields of a message that lie in one byte -/

/-- A field of n + 1 bits is its first n bits and its last bit. -/
theorem div_mod_two_pow_succ (x j n : Nat) :
    x / 2 ^ j % 2 ^ (n + 1) = 2 * (x / 2 ^ (j + 1) % 2 ^ n) + x / 2 ^ j % 2 := by
  rw [pow_succ 2 j, ← Nat.div_div_eq_div_mul, pow_succ' 2 n, Nat.mod_mul, Nat.add_comm]

/-- The bits of a field inside byte k are bits of that byte (R7, R160). -/
theorem msgBits_in_byte (m : List Byte) (k i n : Nat) (h : i + n ≤ 8) :
    msgBits m (8 * k + i + 1) (8 * k + i + n) = (m.getD k 0).toNat / 2 ^ (8 - i - n) % 2 ^ n := by
  have hlen : ∀ n, 8 * k + i + n + 1 - (8 * k + i + 1) = n := fun n => by omega
  induction n with
  | zero => simp [msgBits, Nat.mod_one]
  | succ n ih =>
    have ih := ih (by omega)
    have hbit : msgBit m (8 * k + i + 1 + n - 1) = (m.getD k 0).toNat.testBit (8 - i - (n + 1)) := by
      rw [msgBit, show (8 * k + i + 1 + n - 1) / 8 = k by omega,
        show 7 - (8 * k + i + 1 + n - 1) % 8 = 8 - i - (n + 1) by omega, BitVec.getLsbD]
    have hpow : 8 - i - n = 8 - i - (n + 1) + 1 := by omega
    simp only [msgBits, hlen] at ih ⊢
    rw [List.range_succ, List.foldl_append, ih, List.foldl_cons, List.foldl_nil, hbit, Nat.toNat_testBit, hpow,
      div_mod_two_pow_succ]

/-- A byte of a five-bit and a three-bit field. -/
theorem toNat_byte_of_fields (x : BitVec 5) (y : BitVec 3) : (x ++ y : BitVec 8).toNat = 8 * x.toNat + y.toNat := by
  rw [BitVec.toNat_append, ← Nat.shiftLeft_add_eq_or_of_lt y.isLt, Nat.shiftLeft_eq]
  omega

/-- The first five bits of byte k (R72, R76). -/
theorem msgBits_high_of_byte {m : List Byte} {k : Nat} {x : BitVec 5} {y : BitVec 3} (h : m.getD k 0 = (x ++ y : BitVec 8)) :
    msgBits m (8 * k + 1) (8 * k + 5) = x.toNat := by
  have hm : msgBits m (8 * k + 1) (8 * k + 5) = (m.getD k 0).toNat / 8 % 32 := msgBits_in_byte m k 0 5 (by omega)
  rw [h, toNat_byte_of_fields] at hm
  omega

/-- The last three bits of byte k (R75, R76). -/
theorem msgBits_low_of_byte {m : List Byte} {k : Nat} {x : BitVec 5} {y : BitVec 3} (h : m.getD k 0 = (x ++ y : BitVec 8)) :
    msgBits m (8 * k + 6) (8 * k + 8) = y.toNat := by
  have hm : msgBits m (8 * k + 6) (8 * k + 8) = (m.getD k 0).toNat / 1 % 8 := msgBits_in_byte m k 5 3 (by omega)
  rw [h, toNat_byte_of_fields] at hm
  omega

/-- DF is the first field of byte 0 (R72). -/
theorem msgDf_of_byte0 {m : List Byte} {df : BitVec 5} {f3 : BitVec 3} (h : m.getD 0 0 = (df ++ f3 : BitVec 8)) :
    msgDf m = df := by
  rw [msgDf, msgField, msgBits_high_of_byte (k := 0) h, BitVec.ofNat_toNat, BitVec.setWidth_eq]

/-- DF as a number and as a field (R72). -/
theorem msgDf_toNat (m : List Byte) : (msgDf m).toNat = msgBits m 1 5 := by
  have h : msgBits m 1 5 = (m.getD 0 0).toNat / 8 % 32 := msgBits_in_byte m 0 0 5 (by omega)
  rw [msgDf, msgField, BitVec.toNat_ofNat]
  omega

/-! ### The rows are DE_DECODE -/

theorem decodesMe_iff {v : Verdict} {cfg : W32} {b : Byte} :
    v.decodesMe cfg b = true ↔ v.emitted cfg = true ∧ msgBits v.m 1 5 = 17 ∧ v.m.getD 4 0 = b := by
  have h17 : msgDf v.m = 17#5 ↔ msgBits v.m 1 5 = 17 := by
    rw [← msgDf_toNat, ← BitVec.toNat_inj]
    rfl
  simp only [Verdict.decodesMe, Bool.and_eq_true, beq_iff_eq, h17]

/-- The field rule of an ME is its row's (R168). -/
theorem meFields_eq_meRule {m : List Byte} {tc : BitVec 5} {st : BitVec 3} (h : m.getD 4 0 = (tc ++ st : BitVec 8))
    (r : DecodedMessage) : meFields m r = meRule tc st m r := by
  unfold meFields meRule
  rw [show msgBits m 33 37 = tc.toNat from msgBits_high_of_byte (k := 4) h,
    show msgBits m 38 40 = st.toNat from msgBits_low_of_byte (k := 4) h]
  simp only [apply_ite (fun rule : List Byte → DecodedMessage → DecodedMessage => rule m r), headerOnly]

/-- The fields of a DF17 message are the ME header and the ME type's rule (R161, R168). -/
theorem decodeFields_of_me {v : Verdict} {tc : BitVec 5} {st : BitVec 3} (hdf : msgBits v.m 1 5 = 17)
    (hme : v.m.getD 4 0 = (tc ++ st : BitVec 8)) (cfg : W32) :
    decodeFields cfg v = meRule tc st v.m (meHeader v.m (commonFields cfg v)) := by
  simp [decodeFields, formatFields, hdf, meFields_eq_meRule hme]

theorem exec_deDecode_of_frameInHand {s : State} {f : RawFrame} (h : s.frameInHand = some f) :
    exec .deDecode s = .next (decodeWith validate f s) := by
  obtain ⟨g, hg, hx⟩ | ⟨hn, -⟩ := execDeDecode_cases s
  · cases h.symm.trans hg
    exact hx
  · cases h.symm.trans hn

/-- The row of a DF byte is DE_DECODE of a frame in hand with that byte 0, and holds on any other state (R74, R141; A9). -/
theorem exec_dfRow {i : Instr} {b : Byte} (hi : encode i = .dfByte b) (s : State) :
    (∃ f, Decodes s f ∧ f.bytes.getD 0 0 = b ∧ exec i s = exec .deDecode s)
      ∨ ((∀ f, Decodes s f → f.bytes.getD 0 0 ≠ b) ∧ exec i s = .next s) := by
  obtain ⟨df, f3, rfl, hx⟩ := exec_of_encode_dfByte hi s
  rw [hx]
  obtain ⟨f, hf, hb, hr⟩ | ⟨hn, hr⟩ := runFormat_cases df f3 (classValidation (dfClass df)) s
  · refine .inl ⟨f, frameInHand_eq_some.1 hf, hb, ?_⟩
    rw [hr, exec_deDecode_of_frameInHand hf, decodeWith, decodeWith, validate_eq_classValidation, msgDf_of_byte0 hb]
  · exact .inr ⟨fun f hf => hn f (frameInHand_eq_some.2 hf), hr⟩

/-- The row of an ME byte is DE_DECODE of a frame in hand whose verdict leads to that ME type, and holds on any other state (R76, R168;
A9). -/
theorem exec_meRow {i : Instr} {b : Byte} (hi : encode i = .meByte b) (s : State) :
    (∃ f, Decodes s f ∧ (validate s f s.now).decodesMe s.cfg b = true ∧ exec i s = exec .deDecode s)
      ∨ ((∀ f, Decodes s f → (validate s f s.now).decodesMe s.cfg b = false) ∧ exec i s = .next s) := by
  obtain ⟨tc, st, rfl, hx⟩ := exec_of_encode_meByte hi s
  rw [hx]
  obtain ⟨f, hf, hv, hr⟩ | ⟨hn, hr⟩ := runMe_cases tc st (meRule tc st) s
  · refine .inl ⟨f, frameInHand_eq_some.1 hf, hv, ?_⟩
    obtain ⟨-, hdf, hme⟩ := decodesMe_iff.1 hv
    rw [hr, exec_deDecode_of_frameInHand hf, decodeWith, decodeFields_of_me hdf hme]
  · exact .inr ⟨fun f hf => hn f (frameInHand_eq_some.2 hf), hr⟩

/-- Settles O45: a row's validation and field rule are those DE_DECODE chooses for the row's byte. -/
theorem rowsAreDecode : Obligations.RowsAreDecode := by
  unfold Obligations.RowsAreDecode
  refine fun s i b => ⟨fun hi => ?_, fun hi => ?_⟩
  · obtain ⟨f, hf, hb, hx⟩ | ⟨hn, hx⟩ := exec_dfRow hi s
    · exact ⟨fun _ _ _ => hx, fun hno => absurd hb (hno f hf)⟩
    · exact ⟨fun f hf hb => absurd hb (hn f hf), fun _ => hx⟩
  · obtain ⟨f, hf, hv, hx⟩ | ⟨hn, hx⟩ := exec_meRow hi s
    · exact ⟨fun _ _ _ => hx, fun hno => absurd (decodesMe_iff.1 hv) (hno f hf)⟩
    · exact ⟨fun f hf hv => absurd (decodesMe_iff.2 hv) (by simp [hn f hf]), fun _ => hx⟩

/-! ### The hash -/

theorem cacheSlot_of_default {p : Params} (hh : p.hash = []) (hl : p.cacheLen = 1024) (a : W24) :
    cacheSlot p a = (icaoHashDefault a).toNat % 1024 := by
  rw [cacheSlot, icaoHash_of_nil hh, hl]

/-- The hash table that gives every address a the value f a (A6). -/
noncomputable def hashTable (f : W24 → Nat) : List (W24 × W32) :=
  (Finset.univ : Finset W24).toList.map fun a => (a, BitVec.ofNat 32 (f a))

theorem lookup_hashTable (f : W24 → Nat) (a : W24) : (hashTable f).lookup a = some (BitVec.ofNat 32 (f a)) :=
  List.lookup_graph (fun a => BitVec.ofNat 32 (f a)) (Finset.mem_toList.2 (Finset.mem_univ a))

/-- Every function into the slots is the slot function of its table (R154). -/
theorem cacheSlot_hashTable {p : Params} (hl : p.cacheLen ≤ 2 ^ 24) {f : W24 → Nat} {a : W24} (hf : f a < p.cacheLen) :
    cacheSlot { p with hash := hashTable f } a = f a := by
  rw [cacheSlot, icaoHash_of_lookup (lookup_hashTable f a), BitVec.toNat_ofNat, Nat.mod_eq_of_lt (a := f a) (by omega),
    Nat.mod_eq_of_lt hf]

/-- Settles O60: the default is R155's by definition, and a table over all addresses gives any other hash. -/
theorem hashIsParameter : Obligations.HashIsParameter := by
  unfold Obligations.HashIsParameter
  refine fun p => ⟨fun hh a => icaoHash_of_nil hh a, fun hh hl => ?_, fun hl f hf => ⟨hashTable f, fun a => ?_⟩⟩
  · simp only [cacheSlot_of_default hh hl]
    decide
  · exact cacheSlot_hashTable hl (hf a)

end Sys2Proof.Machine
end

section
/-! What one instruction can do (10_state.md): an effect for every way HOST, FE or DE changes the state, and every instruction's next
state as one of its agent's effects. The statements about the state are case analyses over these effects. -/

namespace Sys2Proof.Machine

/-! ### The instructions of each agent -/

/-- i writes CFG (R189). -/
def WritesCfg (i : Instr) : Prop := (∃ v, i = .wr2Cfg v) ∨ ∃ q ae f1 f2 c m, i = .cfgWrite q ae f1 f2 c m

theorem de_instr_cases {i : Instr} (h : agentOf i = .de) :
    i = .deTake ∨ i = .deDecode ∨ i = .deEmit ∨ (∃ b, encode i = .dfByte b) ∨ ∃ b, encode i = .meByte b := by
  cases i <;> simp [agentOf, encode] at h ⊢

theorem decodeRegWrite_wellFormed (r : BitVec 6) (v : W32) : (decodeRegWrite r v).wellFormed = true := by
  unfold decodeRegWrite
  split
  · split
    · rfl
    · split
      · rfl
      · split <;> simp_all [Instr.wellFormed]
  · split <;> simp_all [Instr.wellFormed]

theorem decodeTxn_wellFormed {w : Txn} {payload : List Byte} {i : Instr} (h : decodeTxn w payload = .ok i) :
    i.wellFormed = true := by
  unfold decodeTxn at h
  split at h
  · split at h
    · cases h
    · split at h <;> cases h
      rfl
  · split at h
    · split at h <;> cases h
      exact decodeRegWrite_wellFormed _ _
    · split at h
      · split at h
        · cases h
        · split at h
          · cases h
          next hl =>
            cases h
            have hlen : payload.length = (txnData w).toNat := not_not.1 hl
            exact decide_eq_true (hlen ▸ (txnData w).isLt)
      · split at h
        · cases h
        · split at h
          · cases h
          · split at h <;> cases h
            rfl

theorem ofDf_wellFormed (df : BitVec 5) (f3 : BitVec 3) : (Instr.ofDf df f3).wellFormed = true := by
  revert df f3; decide

theorem ofMe_wellFormed (tc : BitVec 5) (st : BitVec 3) : (Instr.ofMe tc st).wellFormed = true := by
  revert tc st; decide

theorem decodePseudo_wellFormed {w : Txn} {i : Instr} (h : decodePseudo w = .ok i) : i.wellFormed = true := by
  unfold decodePseudo at h
  repeat (split at h; · cases h; rfl)
  cases h

theorem decodeLabel_wellFormed {b : Byte} {i : Instr} (h : decodeLabel b = .ok i) : i.wellFormed = true := by
  unfold decodeLabel at h
  repeat (split at h; · cases h; rfl)
  cases h

/-- What the decoder answers is well formed (R63, R66, R188). -/
theorem decode_wellFormed {e : Encoded} {i : Instr} (h : decode e = .ok i) : i.wellFormed = true := by
  cases e with
  | txn w payload => exact decodeTxn_wellFormed h
  | pseudo w => exact decodePseudo_wellFormed h
  | label b => exact decodeLabel_wellFormed h
  | dfByte b => cases h; exact ofDf_wellFormed _ _
  | meByte b => cases h; exact ofMe_wellFormed _ _

theorem enabled_wellFormed {i : Instr} {s : State} (h : StepEnabled i s) : i.wellFormed = true := by
  cases h <;> rfl

theorem enabled_not_host {i : Instr} {s : State} (h : StepEnabled i s) : agentOf i ≠ .host := by
  cases h <;> decide

/-! ### HOST -/

/-- What a host transaction can do (R187–R195), its response included. -/
inductive HostEffect (s : State) : Instr → State → Prop where
  /-- a read, or a transaction that changes nothing but the response -/
  | answer (i : Instr) (r : Response) : HostEffect s i (s.respond r)
  /-- START in IDLE (R191) -/
  | start {i : Instr} (hi : i = .wr0Start ∨ i = .start) (hr : s.runState = .idle) :
      HostEffect s i ({ s with runState := .running }.respond .nothing)
  /-- STOP in RUNNING (R192) -/
  | stopRunning {i : Instr} (hi : i = .wr0Stop ∨ i = .stop) (hr : s.runState = .running) :
      HostEffect s i ({ s with runState := .stopping }.respond .nothing)
  /-- STOP in IDLE (R192) -/
  | stopIdle {i : Instr} (hi : i = .wr0Stop ∨ i = .stop) (hr : s.runState = .idle) :
      HostEffect s i ({ s with runState := .halted, fePhase := .halted, dePhase := .halted }.respond .nothing)
  /-- RESET (R193) -/
  | reset {i : Instr} (hi : i = .wr0Reset ∨ i = .reset) : HostEffect s i (s.resetBlock.respond .nothing)
  /-- an undefined command (R190) -/
  | badCmd (v : W32) (h1 : v ≠ 1) (h2 : v ≠ 2) (h3 : v ≠ 3) :
      HostEffect s (.wr0Undefined v) ((s.raise .badCmd).respond .nothing)
  /-- a CFG write in IDLE (R189) -/
  | cfg {i : Instr} (hi : WritesCfg i) (hr : s.runState = .idle) (v : W32) :
      HostEffect s i ({ s with cfg := cfgOfWrite v }.respond .nothing)
  /-- a CFG write outside IDLE (R189) -/
  | cfgRefused {i : Instr} (hi : WritesCfg i) (hr : s.runState ≠ .idle) :
      HostEffect s i ((s.raise .cfgWhileRunning).respond .nothing)
  /-- a block accepted (R194) -/
  | accept (p : List Byte) (hr : s.runState = .running) (hq : s.iq.length < s.params.iqCap) :
      HostEffect s (.submit p) ({ s.count .blkIn 1 with iq := s.iq ++ [p] }.respond (.accepted true))
  /-- a block dropped (R194) -/
  | drop (p : List Byte) : HostEffect s (.submit p) ((s.count .blkDrop 1).respond (.accepted false))
  /-- a record handed to HOST (R195) -/
  | pop (m : DecodedMessage) (q : List DecodedMessage) (h : s.oq = m :: q) :
      HostEffect s .pop ({ s with oq := q }.respond (.record m))

theorem hostEffect_cmdStart (s : State) {i : Instr} (hi : i = .wr0Start ∨ i = .start) :
    HostEffect s i ((cmdStart s).respond .nothing) := by
  unfold cmdStart
  split
  next hr => exact .start hi hr
  next => exact .answer i .nothing

theorem hostEffect_cmdStop (s : State) {i : Instr} (hi : i = .wr0Stop ∨ i = .stop) :
    HostEffect s i ((cmdStop s).respond .nothing) := by
  unfold cmdStop
  split
  next hr => exact .stopRunning hi hr
  next hr => exact .stopIdle hi hr
  next => exact .answer i .nothing
  next => exact .answer i .nothing

theorem hostEffect_cfgWrite (s : State) {i : Instr} (hi : WritesCfg i) (v : W32) :
    HostEffect s i ((cfgWrite v s).respond .nothing) := by
  obtain ⟨hr, he⟩ | ⟨hr, he⟩ := cfgWrite_cases v s <;> rw [he]
  · exact .cfg hi hr v
  · exact .cfgRefused hi hr

theorem hostEffect_undefined (s : State) {v : W32} (hv : (Instr.wr0Undefined v).wellFormed = true) :
    HostEffect s (.wr0Undefined v) ((command v s).respond .nothing) := by
  simp only [Instr.wellFormed, Bool.and_eq_true, bne_iff_ne, ne_eq] at hv
  obtain ⟨⟨h1, h2⟩, h3⟩ := hv
  obtain ⟨h, -⟩ | ⟨h, -⟩ | ⟨h, -⟩ | ⟨-, -, -, he⟩ := command_cases v s
  · exact absurd h h1
  · exact absurd h h2
  · exact absurd h h3
  · exact he ▸ .badCmd v h1 h2 h3

theorem hostEffect_wrOther (s : State) {r : BitVec 6} {v : W32} (hw : (Instr.wrOther r v).wellFormed = true) :
    HostEffect s (.wrOther r v) ((regWrite r v s).respond .nothing) := by
  simp only [Instr.wellFormed, Bool.and_eq_true, bne_iff_ne, ne_eq] at hw
  obtain ⟨h, -⟩ | ⟨h, -⟩ | ⟨-, -, he⟩ := regWrite_cases r v s
  · exact absurd h hw.1
  · exact absurd h hw.2
  · rw [he]
    exact .answer _ .nothing

theorem hostEffect_submit (s : State) (p : List Byte) : HostEffect s (.submit p) (submitBlock p s) := by
  obtain ⟨hr, hq, he⟩ | ⟨-, he⟩ := submitBlock_cases p s <;> rw [he]
  · exact .accept p hr hq
  · exact .drop p

theorem hostEffect_pop (s : State) : HostEffect s .pop (popMsg s) := by
  obtain ⟨-, he⟩ | ⟨m, q, hq, he⟩ := popMsg_cases s <;> rw [he]
  · exact .answer _ .empty
  · exact .pop m q hq

/-- Every host transaction has one of HOST's effects. -/
theorem exec_hostEffect {i : Instr} {s t : State} (ha : agentOf i = .host) (hw : i.wellFormed = true)
    (h : exec i s = .next t) : HostEffect s i t := by
  cases i with
  | rdR r => cases h; exact .answer _ _
  | rdStatus => cases h; exact .answer _ _
  | wr0Start => cases h; exact hostEffect_cmdStart s (.inl rfl)
  | start => cases h; exact hostEffect_cmdStart s (.inr rfl)
  | wr0Stop => cases h; exact hostEffect_cmdStop s (.inl rfl)
  | stop => cases h; exact hostEffect_cmdStop s (.inr rfl)
  | wr0Reset => cases h; exact .reset (.inl rfl)
  | reset => cases h; exact .reset (.inr rfl)
  | wr0Undefined v => cases h; exact hostEffect_undefined s hw
  | wr2Cfg v => cases h; exact hostEffect_cfgWrite s (.inl ⟨v, rfl⟩) v
  | cfgWrite q ae f1 f2 c m => cases h; exact hostEffect_cfgWrite s (.inr ⟨q, ae, f1, f2, c, m, rfl⟩) _
  | wrOther r v => cases h; exact hostEffect_wrOther s hw
  | submit p => cases h; exact hostEffect_submit s p
  | pop => cases h; exact hostEffect_pop s
  | _ => cases ha

/-! ### FE -/

/-- What a step of FE can do (R90, R94, R113, R129, R130, R133). -/
inductive FeEffect (s : State) : State → Prop where
  /-- FE holds (R10) -/
  | hold : FeEffect s s
  /-- FE_TAKE of a zero-length block (R129) -/
  | sentinel (q : List (List Byte)) (hp : s.fePhase = .idle) (hr : s.runState = .running) (hq : s.iq = [] :: q) :
      FeEffect s { s with iq := q, runState := .stopping }
  /-- FE_TAKE of a block of odd length (R129) -/
  | oddBlock (x : List Byte) (q : List (List Byte)) (hp : s.fePhase = .idle) (hr : s.runState = .running) (hq : s.iq = x :: q)
      (hx : x.length % 2 = 1) : FeEffect s (({ s with iq := q }.raise .oddLen).count .blkDiscard 1)
  /-- FE_TAKE of a block over MAX_BLOCK_BYTES (R129) -/
  | bigBlock (x : List Byte) (q : List (List Byte)) (hp : s.fePhase = .idle) (hr : s.runState = .running) (hq : s.iq = x :: q)
      (hx : x.length % 2 = 0) (hm : s.params.maxBlockBytes < x.length) :
      FeEffect s (({ s with iq := q }.raise .oversize).count .blkDiscard 1)
  /-- FE_TAKE of a block FE then holds (R129) -/
  | take (x : List Byte) (q : List (List Byte)) (hp : s.fePhase = .idle) (hr : s.runState = .running) (hq : s.iq = x :: q)
      (hne : x ≠ []) (hx : x.length % 2 = 0) (hm : x.length ≤ s.params.maxBlockBytes) :
      FeEffect s { s with iq := q, mem := s.mem.store x, blkLen := some x.length, fePhase := .mag }
  /-- FE_MAG (R90) -/
  | mag (ws : List W16) (hp : s.fePhase = .mag) (hw : ws.length = s.wordCount) :
      FeEffect s { s.setWords ws with fePhase := .demod }
  /-- FE_DEMOD (R94) -/
  | demod (ws : List W16) (hp : s.fePhase = .demod) (hw : ws.length = s.wordCount) :
      FeEffect s { s.setWords ws with fePhase := .frame }
  /-- FE_FRAME (R113) -/
  | frame (hp : s.fePhase = .frame) :
      FeEffect s { s.count .frmRej (framePass s.params.resumeSkip (cfgQuality s.cfg) s.words).2 with
        pending := (framePass s.params.resumeSkip (cfgQuality s.cfg) s.words).1, fePhase := .emit }
  /-- FE_EMIT with PENDING empty (R130) -/
  | blockDone (hp : s.fePhase = .emit) (hq : s.pending = []) :
      FeEffect s { s.count .blkDone 1 with fePhase := .idle, blkLen := none, mem := [] }
  /-- FE_EMIT of a frame (R130) -/
  | emit (f : RawFrame) (fs : List RawFrame) (hp : s.fePhase = .emit) (hq : s.pending = f :: fs)
      (hc : s.fq.length < s.params.fqCap) : FeEffect s { s.count .frmOut 1 with fq := s.fq ++ [.frame f], pending := fs }
  /-- FE_HALT (R133) -/
  | halt (hp : s.fePhase = .idle) (hr : s.runState = .stopping) (hc : s.fq.length < s.params.fqCap) :
      FeEffect s { s.count .blkDiscard s.iq.length with iq := [], fq := s.fq ++ [.endMark], fePhase := .halted }

/-- A step under its test either holds or has its effect. -/
theorem feEffect_whenEnabled {e : Bool} {f : State → State} {s t : State} (h : whenEnabled e f s = .next t)
    (hf : e = true → FeEffect s (f s)) : FeEffect s t := by
  rw [whenEnabled_next] at h
  cases e with
  | true => exact h ▸ hf rfl
  | false => exact h ▸ .hold

theorem feEffect_feTake {s : State} (h : StepEnabled .feTake s) : FeEffect s (feTake s) := by
  obtain ⟨_, hp, hr, hne⟩ := h
  obtain ⟨x, q, hq⟩ := List.exists_cons_of_ne_nil hne
  rw [feTake_cons hq]
  obtain ⟨rfl, he⟩ | ⟨hx, he⟩ | ⟨-, hx, hm, he⟩ | ⟨hx0, hx, hm, he⟩ := takeBlock_cases x { s with iq := q } <;> rw [he]
  · exact .sentinel q hp hr hq
  · exact .oddBlock x q hp hr hq hx
  · exact .bigBlock x q hp hr hq hx hm
  · exact .take x q hp hr hq hx0 hx hm

theorem feEffect_feDemod {s : State} (hp : s.fePhase = .demod) : FeEffect s (feDemod s) := by
  obtain ⟨w, hw, he⟩ | ⟨-, he⟩ := feDemod_cases s <;> rw [he]
  · exact .demod w hp (by rw [demodRun_length hw, words_length])
  · exact .hold

theorem feEffect_feEmit {s : State} (h : StepEnabled .feEmit s) : FeEffect s (feEmit s) := by
  cases h with
  | feEmit _ hp hc =>
    obtain ⟨hq, he⟩ | ⟨f, fs, hq, he⟩ := feEmit_cases s <;> rw [he]
    · exact .blockDone hp hq
    · exact .emit f fs hp hq (hc.resolve_left (by simp [hq]))

/-- Every step of FE has one of FE's effects. -/
theorem exec_feEffect {i : Instr} {s t : State} (ha : agentOf i = .fe) (h : exec i s = .next t) : FeEffect s t := by
  cases i with
  | feTake => exact feEffect_whenEnabled h fun he => feEffect_feTake (feTakeEnabled_iff.1 he)
  | feMag =>
    exact feEffect_whenEnabled h fun he => .mag _ (of_decide_eq_true he) (by simp [magWords_length])
  | feDemod => exact feEffect_whenEnabled h fun he => feEffect_feDemod (of_decide_eq_true he)
  | feFrame => exact feEffect_whenEnabled h fun he => .frame (of_decide_eq_true he)
  | feEmit => exact feEffect_whenEnabled h fun he => feEffect_feEmit (feEmitEnabled_iff.1 he)
  | feHalt =>
    refine feEffect_whenEnabled h fun he => ?_
    cases feHaltEnabled_iff.1 he with
    | feHalt _ hp hr hc => exact .halt hp hr hc
  | _ => cases ha

/-! ### DE -/

theorem afterNow_eq (s : State) :
    s.afterNow = { s with nowIn := s.nowIn.tail, draws := if s.nowIn.isEmpty then s.draws + 1 else s.draws } := by
  unfold State.afterNow
  split <;> simp_all

/-- The record a decode hands on, none where it drops the message (R148, R150). -/
def decodeOut (cfg : W32) (v : Verdict) : Option DecodedMessage :=
  if v.emitted cfg then some (decodeFields cfg v) else none

/-- The next state of a decode, field by field (R138, R147, R150). -/
theorem decodeWith_eq_afterDecode (validation : State → RawFrame → W32 → Verdict) (f : RawFrame) (s : State) :
    decodeWith validation f s =
      afterDecode s (statusCounter (validation s f s.now).status) (validation s f s.now).cache
        (decodeOut s.cfg (validation s f s.now)) := by
  unfold decodeWith decodeOut
  obtain ⟨he, hf⟩ | ⟨he, hf⟩ :=
    finishDecode_cases s.afterNow (validation s f s.now) (decodeFields s.cfg (validation s f s.now))
  all_goals
    rw [afterNow_cfg] at he
    rw [hf, he, afterNow_eq]
    rfl

/-- DE_DECODE of a frame in hand. -/
theorem exec_deDecode {s : State} {f : RawFrame} (h : Decodes s f) :
    exec .deDecode s = .next (afterDecode s (statusCounter (validate s f s.now).status) (validate s f s.now).cache
      (decodeOut s.cfg (validate s f s.now))) := by
  rw [exec_deDecode_of_frameInHand (frameInHand_eq_some.2 h), decodeWith_eq_afterDecode]

/-- Each class's cache: the one before, or a PI frame's address recorded (R142, R145, R146, R156). -/
def CacheAfter (s : State) (i : Instr) (f : RawFrame) (cache : List (Nat × CacheSlot)) : Prop :=
  cache = s.cache ∨ (DecodesMe i f ∧ f.df ∈ [11, 17, 18, 19] ∧ syndrome f.len.bits f.bytes = 0
    ∧ cache = cacheRecord s.params s.cache (announcedAddress f.bytes) s.now)

/-- What a step of DE can do (R134, R135, R138). -/
inductive DeEffect (s : State) : Instr → State → Prop where
  /-- DE holds (R10) -/
  | hold (i : Instr) : DeEffect s i s
  /-- DE_TAKE of END (R134) -/
  | halt (i : Instr) (q : List FqItem) (hp : s.dePhase = .idle) (hq : s.fq = .endMark :: q) :
      DeEffect s i { s with fq := q, dePhase := .halted, runState := .halted }
  /-- DE_TAKE of a frame (R134) -/
  | take (i : Instr) (f : RawFrame) (q : List FqItem) (hp : s.dePhase = .idle) (hq : s.fq = .frame f :: q) :
      DeEffect s i { s with fq := q, frame := some f, dePhase := .decode }
  /-- a decode of the frame in hand (R138; A9) -/
  | decode (i : Instr) (f : RawFrame) (hf : Decodes s f) (st : CrcStatus) (cache : List (Nat × CacheSlot))
      (hc : CacheAfter s i f cache) (out : Option DecodedMessage) :
      DeEffect s i (afterDecode s (statusCounter st) cache out)
  /-- DE_EMIT (R135) -/
  | emit (i : Instr) (m : DecodedMessage) (hp : s.dePhase = .emit) (hm : s.msg = some m) (hc : s.oq.length < s.params.oqCap) :
      DeEffect s i { s.count .msgOut 1 with oq := s.oq ++ [m], msg := none, dePhase := .idle }

/-! ### The class and the address of a frame -/

/-- A field is its first part and the rest (R160). -/
theorem msgBits_split (m : List Byte) {a b : Nat} (h : a ≤ b + 1) (n : Nat) :
    msgBits m a (b + n) = msgBits m a b * 2 ^ n + msgBits m (b + 1) (b + n) := by
  induction n with
  | zero => simp [msgBits]
  | succ n ih =>
    have hl : b + (n + 1) + 1 - a = b + n + 1 - a + 1 := by omega
    have hr : b + (n + 1) + 1 - (b + 1) = b + n + 1 - (b + 1) + 1 := by omega
    have hi : a + (b + n + 1 - a) - 1 = b + 1 + (b + n + 1 - (b + 1)) - 1 := by omega
    simp only [msgBits] at ih ⊢
    rw [hl, hr, List.range_succ, List.range_succ, List.foldl_append, List.foldl_append, List.foldl_cons, List.foldl_cons,
      List.foldl_nil, List.foldl_nil, ih, hi, pow_succ]
    ring

/-- A whole byte as a field (R7). -/
theorem msgBits_byte (m : List Byte) (k : Nat) : msgBits m (8 * k + 1) (8 * k + 8) = (m.getD k 0).toNat := by
  have h : msgBits m (8 * k + 1) (8 * k + 8) = (m.getD k 0).toNat / 1 % 256 := msgBits_in_byte m k 0 8 (by omega)
  have hlt := (m.getD k 0).isLt
  omega

/-- Two fields side by side, the high one first. -/
theorem toNat_append_eq_add {n m : Nat} (x : BitVec n) (y : BitVec m) : (x ++ y).toNat = x.toNat * 2 ^ m + y.toNat := by
  rw [BitVec.toNat_append, ← Nat.shiftLeft_add_eq_or_of_lt y.isLt, Nat.shiftLeft_eq]

/-- AA as a field of the message is its bytes 1, 2 and 3 (R75). -/
theorem msgField_announcedAddress (m : List Byte) : msgField 24 m 9 32 = announcedAddress m := by
  have h1 : msgBits m 9 16 = (m.getD 1 0).toNat := msgBits_byte m 1
  have h2 : msgBits m 17 24 = (m.getD 2 0).toNat := msgBits_byte m 2
  have h3 : msgBits m 25 32 = (m.getD 3 0).toNat := msgBits_byte m 3
  have h12 : msgBits m 9 24 = msgBits m 9 16 * 2 ^ 8 + msgBits m 17 24 := msgBits_split m (by omega) 8
  have h23 : msgBits m 9 32 = msgBits m 9 24 * 2 ^ 8 + msgBits m 25 32 := msgBits_split m (by omega) 8
  apply BitVec.eq_of_toNat_eq
  rw [msgField, announcedAddress, BitVec.toNat_ofNat, toNat_append_eq_add, toNat_append_eq_add]
  omega

/-- DF as the five high bits of byte 0 (R72, R138). -/
theorem msgDf_eq_df (f : RawFrame) : (msgDf f.bytes).toNat = f.df := by
  have h : msgBits f.bytes 1 5 = (f.bytes.getD 0 0).toNat / 8 % 32 := msgBits_in_byte f.bytes 0 0 5 (by omega)
  rw [msgDf_toNat, h, RawFrame.df]
  omega

theorem dfClass_eq_pi (df : BitVec 5) : dfClass df = .pi ↔ df.toNat ∈ [11, 17, 18, 19] := by revert df; decide

theorem dfClass_eq_ap (df : BitVec 5) : dfClass df = .ap ↔ df.toNat ∈ [0, 4, 5, 16, 20, 21] ∨ 24 ≤ df.toNat := by
  revert df; decide

theorem dfClass_eq_other (df : BitVec 5) :
    dfClass df = .other ↔ df.toNat ∈ [1, 2, 3, 6, 7, 8, 9, 10, 12, 13, 14, 15, 22, 23] := by
  revert df; decide

/-! ### The verdict of each class (R142, R145, R146) -/

/-- A frame of a PI format is validated as PI (R141). -/
theorem validate_of_pi {f : RawFrame} (h : f.df ∈ [11, 17, 18, 19]) (s : State) (t : W32) :
    validate s f t = validatePi s f t := by
  rw [validate, (dfClass_eq_pi _).2 (msgDf_eq_df f ▸ h)]

theorem validate_of_ap {f : RawFrame} (h : f.df ∈ [0, 4, 5, 16, 20, 21] ∨ 24 ≤ f.df) (s : State) (t : W32) :
    validate s f t = validateAp s f t := by
  rw [validate, (dfClass_eq_ap _).2 (msgDf_eq_df f ▸ h)]

theorem validate_of_other {f : RawFrame} (h : f.df ∈ [1, 2, 3, 6, 7, 8, 9, 10, 12, 13, 14, 15, 22, 23]) (s : State) (t : W32) :
    validate s f t = validateOther s f t := by
  rw [validate, (dfClass_eq_other _).2 (msgDf_eq_df f ▸ h)]

/-- The verdict on a PI frame whose correction has the status st and flips e: AA of the corrected message, recorded where the frame was
directly valid (R142, R149, R156). -/
def piVerdict (s : State) (f : RawFrame) (t : W32) (st : CrcStatus) (e : List Nat) : Verdict :=
  { m := flipBits f.bytes e, len := f.len, status := st, cls := .pi, syn := syndrome f.len.bits f.bytes, flips := e,
    addr := announcedAddress (flipBits f.bytes e), addrKind := .aa,
    cache := if st = .directOk then cacheRecord s.params s.cache (announcedAddress (flipBits f.bytes e)) t else s.cache }

theorem validatePi_eq {s : State} {f : RawFrame} {st : CrcStatus} {e : List Nat}
    (h : correctPi s.cfg f.len.bits (syndrome f.len.bits f.bytes) = (st, e)) (t : W32) :
    validatePi s f t = piVerdict s f t st e := by
  simp only [validatePi, h, msgField_announcedAddress, piVerdict]

/-- Correction answers DIRECT_OK for the syndrome 0 only (R142). -/
theorem correctPi_directOk {cfg : W32} {n : Nat} {x : W24} (h : (correctPi cfg n x).1 = .directOk) :
    x = 0 ∧ correctPi cfg n x = (.directOk, []) := by
  obtain ⟨hx, he⟩ | ⟨-, -, j0, -, he⟩ | ⟨-, -, -, -, j0, j1, -, he⟩ | ⟨-, -, he⟩ := correctPi_cases cfg n x
  · exact ⟨hx, he⟩
  all_goals rw [he] at h; cases h

/-- What a decode that changes the cache has before it: a PI frame of syndrome 0, whose AA it records (R142, R156). -/
theorem validate_cache_changed {s : State} {f : RawFrame} {t : W32} (h : (validate s f t).cache ≠ s.cache) :
    f.df ∈ [11, 17, 18, 19] ∧ syndrome f.len.bits f.bytes = 0 ∧ validate s f t = piVerdict s f t .directOk [] := by
  obtain he | ⟨hcls, hst, -⟩ := validate_cache s f t
  · exact absurd he h
  · have hdf : f.df ∈ [11, 17, 18, 19] := msgDf_eq_df f ▸ (dfClass_eq_pi _).1 hcls
    rw [validate_of_pi hdf] at hst ⊢
    obtain ⟨hx, hc⟩ := correctPi_directOk (cfg := s.cfg) (n := f.len.bits) (x := syndrome f.len.bits f.bytes) hst
    exact ⟨hdf, hx, validatePi_eq hc t⟩

/-! ### The effects of a decode -/

/-- The cache a decode leaves, where the instruction decodes the frame's own DF or ME byte whenever the cache changed. -/
theorem cacheAfter_validate {s : State} {i : Instr} {f : RawFrame}
    (hi : (validate s f s.now).cache ≠ s.cache → DecodesMe i f) : CacheAfter s i f (validate s f s.now).cache := by
  by_cases h : (validate s f s.now).cache = s.cache
  · exact .inl h
  · obtain ⟨hdf, hx, hv⟩ := validate_cache_changed h
    refine .inr ⟨hi h, hdf, hx, ?_⟩
    rw [hv]
    rfl

theorem deEffect_of_deDecode {s t : State} {i : Instr} {f : RawFrame} (hf : Decodes s f)
    (hi : (validate s f s.now).cache ≠ s.cache → DecodesMe i f) (h : exec .deDecode s = .next t) : DeEffect s i t := by
  rw [exec_deDecode hf] at h
  cases h
  exact .decode i f hf _ _ (cacheAfter_validate hi) _

theorem deEffect_dfRow {s t : State} {i : Instr} {b : Byte} (hi : encode i = .dfByte b) (h : exec i s = .next t) :
    DeEffect s i t := by
  obtain ⟨f, hf, rfl, hx⟩ | ⟨-, hx⟩ := exec_dfRow hi s <;> rw [hx] at h
  · exact deEffect_of_deDecode hf (fun _ => .inl (.inr hi)) h
  · cases h
    exact .hold i

theorem deEffect_meRow {s t : State} {i : Instr} {b : Byte} (hi : encode i = .meByte b) (h : exec i s = .next t) :
    DeEffect s i t := by
  obtain ⟨f, hf, hv, hx⟩ | ⟨-, hx⟩ := exec_meRow hi s <;> rw [hx] at h
  · refine deEffect_of_deDecode hf (fun hc => .inr ?_) h
    obtain ⟨-, -, hb⟩ := decodesMe_iff.1 hv
    rw [(validate_cache_changed hc).2.2] at hb
    rw [hi, ← hb]
    rfl
  · cases h
    exact .hold i

theorem deEffect_deTake {s t : State} (h : exec .deTake s = .next t) : DeEffect s .deTake t := by
  obtain rfl := whenEnabled_next.1 h
  split
  next he =>
    cases deTakeEnabled_iff.1 he with
    | deTake _ hp hne =>
      obtain ⟨q, hq, ht⟩ | ⟨f, q, hq, ht⟩ := deTake_cases hne <;> rw [ht]
      · exact .halt _ q hp hq
      · exact .take _ f q hp hq
  next => exact .hold _

theorem deEffect_deEmit {s t : State} (h : exec .deEmit s = .next t) : DeEffect s .deEmit t := by
  obtain rfl := whenEnabled_next.1 h
  split
  next he =>
    cases deEmitEnabled_iff.1 he with
    | deEmit _ hp hc =>
      obtain ⟨-, ht⟩ | ⟨m, hm, ht⟩ := deEmit_cases s <;> rw [ht]
      · exact .hold _
      · exact .emit _ m hp hm hc
  next => exact .hold _

theorem deEffect_deDecode {s t : State} (h : exec .deDecode s = .next t) : DeEffect s .deDecode t := by
  obtain ⟨f, hf, -⟩ | ⟨-, hx⟩ := execDeDecode_cases s
  · exact deEffect_of_deDecode (frameInHand_eq_some.1 hf) (fun _ => .inl (.inl rfl)) h
  · cases h.symm.trans hx
    exact .hold _

/-- Every step of DE, the rows of the opcode table included, has one of DE's effects. -/
theorem exec_deEffect {i : Instr} {s t : State} (ha : agentOf i = .de) (h : exec i s = .next t) : DeEffect s i t := by
  obtain rfl | rfl | rfl | ⟨b, hb⟩ | ⟨b, hb⟩ := de_instr_cases ha
  · exact deEffect_deTake h
  · exact deEffect_deDecode h
  · exact deEffect_deEmit h
  · exact deEffect_dfRow hb h
  · exact deEffect_meRow hb h

end Sys2Proof.Machine
end

section
/-! The state and its steps (10_state.md): what a step runs, the values after reset, STATUS, and what each agent leaves alone. -/

namespace Sys2Proof.Machine

/-! ### What a step runs -/

/-- Settles O5: fetch takes the agenda's head, which decodes. -/
theorem stepRunsDecoded : Obligations.StepRunsDecoded := by
  unfold Obligations.StepRunsDecoded
  intro s e rest i hp ha hd
  simp only [step, if_pos hp, fetch, ha, hd]

theorem enabled_agent {i : Instr} {s : State} (h : StepEnabled i s) : agentOf i = .fe ∨ agentOf i = .de :=
  (next_of_enabled h).imp (fun h => (feNext_eq_some.1 h).2) (fun h => (deNext_eq_some.1 h).2)

/-- FE and DE each have at most one enabled step. -/
theorem enabled_unique {i j : Instr} {s : State} (hi : StepEnabled i s) (hj : StepEnabled j s) (h : agentOf i = agentOf j) :
    i = j := by
  obtain ha | ha := enabled_agent hi
  · exact Option.some.inj ((feNext_eq_some.2 ⟨hi, ha⟩).symm.trans (feNext_eq_some.2 ⟨hj, h ▸ ha⟩))
  · exact Option.some.inj ((deNext_eq_some.2 ⟨hi, ha⟩).symm.trans (deNext_eq_some.2 ⟨hj, h ▸ ha⟩))

theorem feNext_eq_none {s : State} (h : ∀ i, StepEnabled i s → agentOf i ≠ .fe) : feNext s = none :=
  Option.eq_none_iff_forall_not_mem.2 fun i hi => h i (feNext_eq_some.1 hi).1 (feNext_eq_some.1 hi).2

theorem deNext_eq_none {s : State} (h : ∀ i, StepEnabled i s → agentOf i ≠ .de) : deNext s = none :=
  Option.eq_none_iff_forall_not_mem.2 fun i hi => h i (deNext_eq_some.1 hi).1 (deNext_eq_some.1 hi).2

section
variable {s : State} (hp : paramsOk s.params = true) (ha : s.agenda = [])
include hp ha

theorem step_of_rest (h : ∀ i, ¬ StepEnabled i s) : step s = .next s := by
  simp only [step, if_pos hp, fetch, ha, feNext_eq_none fun i hi => absurd hi (h i), deNext_eq_none fun i hi => absurd hi (h i)]

theorem step_of_single {i : Instr} (hi : StepEnabled i s) (h : ∀ j, StepEnabled j s → j = i) : step s = exec i s := by
  obtain hf | hd := enabled_agent hi
  · have hn : deNext s = none := deNext_eq_none fun j hj => by rw [h j hj, hf]; decide
    simp only [step, if_pos hp, fetch, ha, feNext_eq_some.2 ⟨hi, hf⟩, hn]
  · have hn : feNext s = none := feNext_eq_none fun j hj => by rw [h j hj, hd]; decide
    simp only [step, if_pos hp, fetch, ha, deNext_eq_some.2 ⟨hi, hd⟩, hn]

/-- Where FE and DE both have a step the free choice picks one (R15; A1). -/
theorem step_of_both {i j : Instr} (hi : StepEnabled i s) (hf : agentOf i = .fe) (hj : StepEnabled j s) (hd : agentOf j = .de) :
    step s = exec i { s with draws := s.draws + 1 } ∨ step s = exec j { s with draws := s.draws + 1 } := by
  simp only [step, if_pos hp, fetch, ha, feNext_eq_some.2 ⟨hi, hf⟩, deNext_eq_some.2 ⟨hj, hd⟩]
  cases Config.freeChoice s.draws
  · exact .inr rfl
  · exact .inl rfl

end

/-- Settles O6: the two selections of fetch are the enabled steps of FE and DE. -/
theorem silentSteps : Obligations.SilentSteps := by
  unfold Obligations.SilentSteps
  refine ⟨fun i j s hi hj h => enabled_unique hi hj h, fun s hp ha =>
    ⟨step_of_rest hp ha, fun i hi h => step_of_single hp ha hi h, fun i j hi hj hne => ?_⟩⟩
  obtain hf | hd := enabled_agent hi <;> obtain hf' | hd' := enabled_agent hj
  · exact absurd (enabled_unique hi hj (hf.trans hf'.symm)) hne
  · exact step_of_both hp ha hi hf hj hd'
  · exact (step_of_both hp ha hj hf' hi hd).symm
  · exact absurd (enabled_unique hi hj (hd.trans hd'.symm)) hne

/-! ### The values after reset -/

/-- Settles O14: each element by its value; an empty cache reads as the empty slot. -/
theorem resetState : Obligations.ResetState := by
  unfold Obligations.ResetState
  refine ⟨rfl, rfl, ?_, ?_, ?_, ?_, ?_, ?_, rfl, counters_zero_get, rfl, rfl, rfl, rfl, rfl, rfl, rfl, rfl, rfl,
    fun k => sparseRead_nil _ k⟩ <;> decide

/-! ### STATUS (R19) -/

/-- The capacities are below 256 (R6). -/
theorem paramsOk_caps {p : Params} (h : paramsOk p = true) : p.iqCap ≤ 255 ∧ p.fqCap ≤ 255 ∧ p.oqCap ≤ 255 := by
  simp only [paramsOk, Bool.and_eq_true, decide_eq_true_eq] at h
  obtain ⟨⟨-, -, -, -, -, -, -, hi, -, hf, -, ho, -⟩, -⟩ := h
  exact ⟨hi, hf, ho⟩

/-- The slots of the cache are a power of two, so there is one (R6, R153). -/
theorem paramsOk_cacheLen {p : Params} (h : paramsOk p = true) : 0 < p.cacheLen := by
  simp only [paramsOk, Bool.and_eq_true, List.any_eq_true, beq_iff_eq] at h
  obtain ⟨-, k, -, hk⟩ := h
  exact hk ▸ Nat.two_pow_pos k

/-- STATUS as the sum of its fields, where the counts fit their eight bits (R19). -/
theorem status_toNat {s : State} (hi : s.iq.length < 256) (hf : s.fq.length < 256) (ho : s.oq.length < 256) :
    s.status.toNat = s.oq.length * 2 ^ 20 + s.fq.length * 2 ^ 12 + s.iq.length * 2 ^ 4 + s.deBusy.toNat * 2 ^ 3
      + s.feBusy.toNat * 2 ^ 2 + s.runState.code.toNat := by
  simp only [State.status, toNat_append_eq_add, BitVec.toNat_ofNat, BitVec.toNat_ofBool]
  omega

theorem extractLsb'_toNat_eq_div_mod {n : Nat} (x : BitVec n) (k w : Nat) :
    (x.extractLsb' k w).toNat = x.toNat / 2 ^ k % 2 ^ w := by
  rw [BitVec.extractLsb'_toNat, Nat.shiftRight_eq_div_pow]

/-- Settles O10: the fields are the digits of a sum, and each count fits its eight bits. -/
theorem statusFields : Obligations.StatusFields := by
  unfold Obligations.StatusFields
  intro s hs
  obtain ⟨hi, hf, ho⟩ := paramsOk_caps hs.params_ok
  have hiq := hs.iq_cap
  have hfq := hs.fq_cap
  have hoq := hs.oq_cap
  have hsum := status_toNat (s := s) (by omega) (by omega) (by omega)
  have hcode := s.runState.code.isLt
  have hfe := Bool.toNat_lt s.feBusy
  have hde := Bool.toNat_lt s.deBusy
  refine ⟨?_, ?_, ?_, ?_, ?_, ?_, ?_⟩
  · have hc : s.status.extractLsb' 0 2 = s.runState.code := by
      apply BitVec.eq_of_toNat_eq
      rw [extractLsb'_toNat_eq_div_mod]
      omega
    rw [hc]
    cases s.runState <;> rfl
  · have hb : s.status.toNat / 2 ^ 2 % 2 = s.feBusy.toNat := by omega
    rw [BitVec.getLsbD, Nat.testBit_eq_decide_div_mod_eq, hb]
    simp [State.feBusy]
  · have hb : s.status.toNat / 2 ^ 3 % 2 = s.deBusy.toNat := by omega
    rw [BitVec.getLsbD, Nat.testBit_eq_decide_div_mod_eq, hb]
    simp [State.deBusy]
  · rw [extractLsb'_toNat_eq_div_mod]
    omega
  · rw [extractLsb'_toNat_eq_div_mod]
    omega
  · rw [extractLsb'_toNat_eq_div_mod]
    omega
  · apply BitVec.eq_of_toNat_eq
    rw [extractLsb'_toNat_eq_div_mod]
    change s.status.toNat / 2 ^ 28 % 2 ^ 4 = 0
    omega

/-! ### What each agent leaves alone (R56, R60, R214) -/

/-- What HOST leaves alone, RESET apart. -/
theorem hostEffect_frame {s t : State} {i : Instr} (h : HostEffect s i t) :
    t.params = s.params ∧ t.agenda = s.agenda
      ∧ (i ≠ .wr0Reset → i ≠ .reset →
          t.mem = s.mem ∧ t.blkLen = s.blkLen ∧ t.pending = s.pending ∧ t.fq = s.fq ∧ t.frame = s.frame ∧ t.msg = s.msg
            ∧ t.cache = s.cache ∧ t.nowIn = s.nowIn ∧ t.draws = s.draws
            ∧ (s.runState ≠ .idle → t.cfg = s.cfg ∧ t.fePhase = s.fePhase ∧ t.dePhase = s.dePhase)
            ∧ t.counters = { s.counters with blkIn := t.counters.blkIn, blkDrop := t.counters.blkDrop }) := by
  cases h with
  | reset hi =>
    refine ⟨rfl, rfl, fun h1 h2 => ?_⟩
    exact hi.elim (fun h => absurd h h1) fun h => absurd h h2
  | stopIdle hi hr =>
    exact ⟨rfl, rfl, fun _ _ => ⟨rfl, rfl, rfl, rfl, rfl, rfl, rfl, rfl, rfl, fun hn => absurd hr hn, rfl⟩⟩
  | cfg hi hr v =>
    exact ⟨rfl, rfl, fun _ _ => ⟨rfl, rfl, rfl, rfl, rfl, rfl, rfl, rfl, rfl, fun hn => absurd hr hn, rfl⟩⟩
  | _ => exact ⟨rfl, rfl, fun _ _ => ⟨rfl, rfl, rfl, rfl, rfl, rfl, rfl, rfl, rfl, fun _ => ⟨rfl, rfl, rfl⟩, rfl⟩⟩

/-- What FE leaves alone. -/
theorem feEffect_frame {s t : State} (h : FeEffect s t) :
    t.params = s.params ∧ t.agenda = s.agenda
      ∧ t.oq = s.oq ∧ t.dePhase = s.dePhase ∧ t.frame = s.frame ∧ t.msg = s.msg ∧ t.cache = s.cache ∧ t.cfg = s.cfg
      ∧ t.resp = s.resp ∧ t.nowIn = s.nowIn ∧ t.draws = s.draws
      ∧ t.counters = { s.counters with
          blkDiscard := t.counters.blkDiscard, blkDone := t.counters.blkDone, frmOut := t.counters.frmOut,
          frmRej := t.counters.frmRej } := by
  cases h <;> exact ⟨rfl, rfl, rfl, rfl, rfl, rfl, rfl, rfl, rfl, rfl, rfl, rfl⟩

/-- What DE leaves alone. -/
theorem deEffect_frame {s t : State} {i : Instr} (h : DeEffect s i t) :
    t.params = s.params ∧ t.agenda = s.agenda
      ∧ t.iq = s.iq ∧ t.fePhase = s.fePhase ∧ t.blkLen = s.blkLen ∧ t.mem = s.mem ∧ t.pending = s.pending ∧ t.cfg = s.cfg
      ∧ t.fault = s.fault ∧ t.resp = s.resp
      ∧ t.counters = { s.counters with
          msgDirect := t.counters.msgDirect, msgFixed := t.counters.msgFixed, msgAp := t.counters.msgAp,
          msgFail := t.counters.msgFail, msgOut := t.counters.msgOut } := by
  cases h with
  | decode f hf st cache hc out =>
    exact ⟨rfl, rfl, rfl, rfl, rfl, rfl, rfl, rfl, rfl, rfl, by cases st <;> rfl⟩
  | _ => exact ⟨rfl, rfl, rfl, rfl, rfl, rfl, rfl, rfl, rfl, rfl, rfl⟩

/-- Settles O18: the frames of the three agents' effects. -/
theorem ownership : Obligations.Ownership := by
  unfold Obligations.Ownership
  intro i s t hw h
  cases ha : agentOf i with
  | host =>
    obtain ⟨hp, hg, hf⟩ := hostEffect_frame (exec_hostEffect ha hw h)
    exact ⟨hp, hg, fun _ => hf, nofun, nofun⟩
  | fe =>
    obtain ⟨hp, hg, hf⟩ := feEffect_frame (exec_feEffect ha h)
    exact ⟨hp, hg, nofun, fun _ => hf, nofun⟩
  | de =>
    obtain ⟨hp, hg, hf⟩ := deEffect_frame (exec_deEffect ha h)
    exact ⟨hp, hg, nofun, nofun, fun _ => hf⟩

/-! ### What a step can do -/

/-- The state an instruction runs in is the step's state, but for the agenda entry or the draw that chose it. -/
theorem runsIn_state {i : Instr} {u s : State} (h : RunsIn i u s) : ∃ a d, u = { s with agenda := a, draws := d } := by
  obtain ⟨e, rest, -, -, rfl⟩ | ⟨-, -, -, rfl⟩ | ⟨-, -, -, rfl⟩ := h
  · exact ⟨rest, s.draws, rfl⟩
  · exact ⟨u.agenda, u.draws, rfl⟩
  · exact ⟨s.agenda, s.draws + 1, rfl⟩

theorem runsIn_wellFormed {i : Instr} {u s : State} (h : RunsIn i u s) : i.wellFormed = true := by
  obtain ⟨e, rest, -, hd, -⟩ | ⟨-, hi, -⟩ | ⟨-, hi, -⟩ := h
  · exact decode_wellFormed hd
  · exact enabled_wellFormed hi
  · exact enabled_wellFormed hi

/-- A transaction runs from the agenda only (R57). -/
theorem runsIn_host {i : Instr} {u s : State} (h : RunsIn i u s) (ha : agentOf i = .host) : NextRuns i s := by
  obtain ⟨e, rest, hg, hd, -⟩ | ⟨-, hi, -⟩ | ⟨-, hi, -⟩ := h
  · exact ⟨e, rest, hg, hd⟩
  · exact absurd ha (enabled_not_host hi)
  · exact absurd ha (enabled_not_host hi)

/-- One of two instructions runs next. -/
theorem nextRuns_either {i j k : Instr} {s : State} (hi : i = j ∨ i = k) (hn : NextRuns i s) : NextRuns j s ∨ NextRuns k s := by
  obtain rfl | rfl := hi
  · exact .inl hn
  · exact .inr hn

/-- CMD RESET on the agenda resets (R218). -/
theorem nextResets_of_runs {i : Instr} {s : State} (hi : i = .wr0Reset ∨ i = .reset) (hn : NextRuns i s) : NextResets s :=
  .inr (nextRuns_either hi hn)

/-- What a step that answers t can have done: an effect of one agent in the state the instruction runs in, the RST input, or nothing. -/
inductive StepEffect (s t : State) : Prop where
  | host (i : Instr) (u : State) (hu : RunsIn i u s) (hn : NextRuns i s) (he : HostEffect u i t)
  | fe (i : Instr) (u : State) (hu : RunsIn i u s) (he : FeEffect u t)
  | de (i : Instr) (u : State) (hu : RunsIn i u s) (ha : agentOf i = .de) (hx : exec i u = .next t) (he : DeEffect u i t)
  | rst (rest : List Event) (hg : s.agenda = .rst :: rest) (ht : t = ({ s with agenda := rest }).resetBlock)
  | rest (ht : t = s)

theorem step_effect {s t : State} (h : step s = .next t) : StepEffect s t := by
  obtain ⟨i, u, hu, hx⟩ | ⟨rest, hg, ht⟩ | ⟨-, -, ht⟩ := step_runsIn h
  · cases ha : agentOf i with
    | host => exact .host i u hu (runsIn_host hu ha) (exec_hostEffect ha (runsIn_wellFormed hu) hx)
    | fe => exact .fe i u hu (exec_feEffect ha hx)
    | de => exact .de i u hu ha hx (exec_deEffect ha hx)
  · exact .rst rest hg ht
  · exact .rest ht

/-! ### FAULT (R20) -/

/-- Settles O59: the four effects that raise a fault, each under its cause. -/
theorem faultsSticky : Obligations.FaultsSticky := by
  unfold Obligations.FaultsSticky
  intro s t h hnr
  cases step_effect h with
  | host i u hu hn he =>
    obtain ⟨a, d, rfl⟩ := runsIn_state hu
    cases he with
    | reset hi => exact absurd (nextResets_of_runs hi hn) hnr
    | badCmd v h1 h2 h3 => exact .inr (.inr (.inr (.inr ⟨rfl, v, h1, h2, h3, hn⟩)))
    | cfgRefused hi hr =>
      refine .inr (.inr (.inr (.inl ⟨rfl, hr, ?_⟩)))
      obtain ⟨v, rfl⟩ | ⟨q, ae, f1, f2, c, m, rfl⟩ := hi
      · exact .inl ⟨v, hn⟩
      · exact .inr ⟨q, ae, f1, f2, c, m, hn⟩
    | _ => exact .inl rfl
  | fe i u hu he =>
    obtain ⟨a, d, rfl⟩ := runsIn_state hu
    cases he with
    | oddBlock x q hp hr hq hx => exact .inr (.inl ⟨rfl, x, hq, hx⟩)
    | bigBlock x q hp hr hq hx hm => exact .inr (.inr (.inl ⟨rfl, x, hq, hx, hm⟩))
    | _ => exact .inl rfl
  | de i u hu ha hx he =>
    obtain ⟨a, d, rfl⟩ := runsIn_state hu
    obtain ⟨-, -, -, -, -, -, -, -, hf, -⟩ := deEffect_frame he
    exact .inl hf
  | rst rest hg ht => exact absurd (.inl ⟨rest, hg⟩) hnr
  | rest ht => exact .inl (ht ▸ rfl)

/-! ### The cache -/

/-- HOST's effects but for RESET keep the cache. -/
theorem hostEffect_cache {s t : State} {i : Instr} (h : HostEffect s i t) :
    t.cache = s.cache ∨ i = .wr0Reset ∨ i = .reset := by
  cases h with
  | reset hi => exact .inr hi
  | _ => exact .inl rfl

/-- DE's effects keep the cache, or record the address of a directly valid PI frame (R156). -/
theorem deEffect_cache {s t : State} {i : Instr} (h : DeEffect s i t) :
    t.cache = s.cache ∨ ∃ f, Decodes s f ∧ CacheAfter s i f t.cache := by
  cases h with
  | decode f hf st cache hc out => exact .inr ⟨f, hf, hc⟩
  | _ => exact .inl rfl

/-- Settles O54: of the agents' effects, only a decode and a reset write the cache. -/
theorem cacheChanges : Obligations.CacheChanges := by
  unfold Obligations.CacheChanges
  intro s t h
  cases step_effect h with
  | host i u hu hn he =>
    obtain ⟨a, d, rfl⟩ := runsIn_state hu
    exact (hostEffect_cache he).imp_right fun hi => .inl (nextResets_of_runs hi hn)
  | fe i u hu he =>
    obtain ⟨a, d, rfl⟩ := runsIn_state hu
    obtain ⟨-, -, -, -, -, -, hc, -⟩ := feEffect_frame he
    exact .inl hc
  | de i u hu ha hx he =>
    obtain ⟨a, d, rfl⟩ := runsIn_state hu
    obtain hc | ⟨f, hf, hc | ⟨hi, hdf, hx0, hc⟩⟩ := deEffect_cache he
    · exact .inl hc
    · exact .inl hc
    · exact .inr (.inr ⟨i, _, f, hu, ha, hx, hf, hi, hdf, hx0, hc⟩)
  | rst rest hg ht => exact .inr (.inl (.inl ⟨rest, hg⟩))
  | rest ht => exact .inl (ht ▸ rfl)

end Sys2Proof.Machine
end

section
/-! The invariant of the block, State.Inv: the framer's frames are well formed, and every effect of HOST, FE and DE keeps the invariant. -/

namespace Sys2Proof.Machine

/-! ### The frames of a FRAME pass (R113–R122) -/

/-- What holds of a candidate: 14 bytes, and from bit 8 on the length that bit 7 of byte 0 says (R115, R117). -/
def FrameRegs.Ok (r : FrameRegs) : Prop :=
  r.acc.length = 14 ∧ (r.cnt < 8 → r.flen = .long) ∧ (8 ≤ r.cnt → r.flen = FrameLen.ofByte0 (r.acc.getD 0 0))

theorem accumulate_length (acc : List Byte) (cnt : Nat) (x : W16) : (accumulate acc cnt x).length = acc.length := by
  unfold accumulate
  split
  · exact List.length_set
  · rfl

/-- From bit 8 on byte 0 stays. -/
theorem accumulate_byte0 (acc : List Byte) {cnt : Nat} (h : 8 ≤ cnt) (x : W16) :
    (accumulate acc cnt x).getD 0 0 = acc.getD 0 0 := by
  have hk : cnt / 8 ≠ 0 := by omega
  unfold accumulate
  split
  · simp [List.getD_eq_getElem?_getD, List.getElem?_set_ne hk]
  · rfl

theorem frameRegs_init_ok (p : Nat) : (FrameRegs.init p).Ok :=
  ⟨rfl, fun _ => rfl, fun h => absurd h (by decide : ¬ 8 ≤ 0)⟩

/-- A candidate keeps what holds of it, bit by bit. -/
theorem candidateFrom_ok (w : List W16) (fuel : Nat) {r : FrameRegs} (h : r.Ok) : (candidateFrom w fuel r).Ok := by
  induction fuel generalizing r with
  | zero => exact h
  | succ fuel ih =>
    obtain ⟨hacc, hlong, hprobe⟩ := h
    have hlen := (accumulate_length r.acc r.cnt (w.getD r.q 0)).trans hacc
    simp only [candidateFrom]
    split
    · split
      next hz => exact ⟨hlen, hlong, fun h8 => absurd h8 (by simp [hz.1])⟩
      next =>
        refine ih ⟨hlen, fun h8 => ?_, fun h8 => ?_⟩ <;> simp only at h8 ⊢
        · rw [if_neg (by omega), hlong (by omega)]
        · split
          · rfl
          next h7 => rw [hprobe (by omega), accumulate_byte0 r.acc (by omega)]
    · exact ⟨hacc, hlong, hprobe⟩

theorem candidate_ok (w : List W16) (p : Nat) : (candidate w p).Ok := candidateFrom_ok w 113 (frameRegs_init_ok p)

/-- An accepted candidate has passed the probe, so its frame has the length its byte 0 says (R70, R118). -/
theorem toFrame_ok {r : FrameRegs} (h : r.Ok) (ha : r.accepted = true) : r.toFrame.Ok := by
  obtain ⟨hacc, -, hprobe⟩ := h
  simp only [FrameRegs.accepted, Bool.and_eq_true, decide_eq_true_eq] at ha
  have hbits : 56 ≤ r.flen.bits := by cases r.flen <;> decide
  have hbytes : r.flen.bytes ≤ 14 ∧ 0 < r.flen.bytes := by cases r.flen <;> decide
  refine ⟨?_, ?_⟩
  · change (r.acc.take r.flen.bytes).length = r.flen.bytes
    rw [List.length_take, hacc]
    exact Nat.min_eq_left hbytes.1
  · change r.flen = FrameLen.ofByte0 ((r.acc.take r.flen.bytes).getD 0 0)
    rw [List.getD_eq_getElem?_getD, List.getElem?_take_of_lt hbytes.2, ← List.getD_eq_getElem?_getD]
    exact hprobe (by omega)

/-- makeFrame hands on the frame it was given (R120). -/
theorem makeFrame_eq_some {quality : Byte} {f g : RawFrame} (h : makeFrame quality f = some g) : g = f := by
  unfold makeFrame at h
  split at h
  · cases h
  · split at h <;> cases h
    rfl

/-- Every frame a pass hands on is well formed. -/
theorem framePassFrom_ok (skip : Nat) (quality : Byte) (w : List W16) (fuel p : Nat) :
    ∀ f ∈ (framePassFrom skip quality w fuel p).1, f.Ok := by
  induction fuel generalizing p with
  | zero => nofun
  | succ fuel ih =>
    unfold framePassFrom
    split
    · split
      · simp only
        split
        next ha =>
          split
          next f hf =>
            intro g hg
            obtain rfl | hg := List.mem_cons.1 hg
            · exact makeFrame_eq_some hf ▸ toFrame_ok (candidate_ok w p) ha
            · exact ih _ g hg
          next => exact ih _
        next => exact ih _
      · exact ih _
    · nofun

/-! ### The block buffer inside the block -/

/-- A store of at most n bytes into a buffer below n stays below n. -/
theorem mem_store_lt {m : Memory} {bs : List Byte} {n : Nat} (hm : ∀ c ∈ m, c.1 < n) (hb : bs.length ≤ n) :
    ∀ c ∈ m.store bs, c.1 < n := by
  intro c hc
  obtain hc | hc := List.mem_append.1 hc
  · have := ((cellsFrom_wf 0 bs).2 c hc).2
    omega
  · exact hm c (List.mem_of_mem_filter hc)

/-- The words of the block fill no more than the block. -/
theorem setWords_in_block {s : State} (hs : s.Inv) {ws : List W16} (hw : ws.length = s.wordCount) :
    ∀ c ∈ (s.setWords ws).mem, c.1 < s.blkLen.getD 0 := by
  refine mem_store_lt hs.mem_in_block ?_
  rw [bytesOfWords_length, hw, State.wordCount]
  omega

/-! ### The cache -/

theorem cacheSlot_lt {p : Params} (h : paramsOk p = true) (a : W24) : cacheSlot p a < p.cacheLen :=
  Nat.mod_lt _ (paramsOk_cacheLen h)

/-- The cache clauses of the invariant hold of what a decode leaves. -/
theorem cacheAfter_wf {s : State} (hs : s.Inv) {i : Instr} {f : RawFrame} {cache : List (Nat × CacheSlot)}
    (h : CacheAfter s i f cache) : sparseWf CacheSlot.empty cache := by
  obtain rfl | ⟨-, -, -, rfl⟩ := h
  · exact hs.cache_wf
  · exact cacheRecord_wf hs.cache_wf _ _

theorem cacheAfter_slots {s : State} (hs : s.Inv) {i : Instr} {f : RawFrame} {cache : List (Nat × CacheSlot)}
    (h : CacheAfter s i f cache) :
    ∀ e ∈ cache, e.1 < s.params.cacheLen ∧ e.2.valid = true ∧ cacheSlot s.params e.2.addr = e.1 := by
  obtain rfl | ⟨-, -, -, rfl⟩ := h
  · exact hs.cache_slots
  · intro e he
    obtain rfl | he := mem_sparseWrite he
    · exact ⟨cacheSlot_lt hs.params_ok _, rfl, rfl⟩
    · exact hs.cache_slots e he

/-! ### Reserved bits -/

theorem cfgOfWrite_lt (v : W32) : (cfgOfWrite v).toNat < 2 ^ 20 := by
  rw [cfgOfWrite, BitVec.toNat_setWidth]
  exact Nat.lt_of_le_of_lt (Nat.mod_le _ _) (v.extractLsb' 0 20).isLt

theorem raise_fault_lt {s : State} (h : s.fault.toNat < 2 ^ 4) (c : FaultCode) : (s.raise c).fault.toNat < 2 ^ 4 := by
  rw [raise_fault, BitVec.toNat_or]
  exact Nat.or_lt_two_pow h (by cases c <;> decide)

/-! ### Reset -/

/-- Reset gives the invariant, whatever the admissible parameters (R217). -/
theorem resetBlock_inv {s : State} (h : paramsOk s.params = true) : s.resetBlock.Inv where
  params_ok := h
  mem_wf := memory_wf_nil
  mem_in_block := nofun
  blk_len := nofun
  cache_wf := sparseWf_nil _
  cache_slots := nofun
  iq_cap := Nat.zero_le _
  fq_cap := Nat.zero_le _
  oq_cap := Nat.zero_le _
  cfg_reserved := (by decide : (0x0005050A : W32).toNat < 2 ^ 20)
  fault_reserved := Nat.two_pow_pos 4
  fq_frames := nofun
  pending_frames := nofun
  de_frame_ok := nofun
  fe_block := by simp
  fe_pending := fun h => absurd rfl h
  de_frame := by simp
  de_msg := by simp
  idle_empty := fun _ => ⟨rfl, rfl, rfl, rfl, rfl⟩
  halted_de := by simp
  halted_fe := nofun
  fe_halted := nofun
  end_mark := by simp
  end_last := fun q x h => absurd h (by simp)

theorem default_paramsOk : paramsOk Params.default = true := by decide

/-- Settles O56: the state after reset is the reset of itself. -/
theorem invariantAtReset : Obligations.InvariantAtReset := by
  unfold Obligations.InvariantAtReset
  exact resetBlock_inv (s := State.reset) default_paramsOk

/-! ### HOST keeps the invariant -/

section
variable {s : State} (hs : s.Inv)
include hs

theorem inv_respond (r : Response) : (s.respond r).Inv := { hs with }

/-- The run state may become any but IDLE and HALTED where it was neither, and FE has not halted. -/
theorem inv_runState {r : RunState} (hr : s.runState ≠ .halted) (hfe : s.fePhase ≠ .halted) (h1 : r ≠ .idle) (h2 : r ≠ .halted) :
    State.Inv { s with runState := r } :=
  { hs with
    idle_empty := fun h => absurd h h1
    halted_de := iff_of_false h2 (mt hs.halted_de.2 hr)
    halted_fe := fun h => absurd h h2
    fe_halted := fun h => absurd h hfe
    end_mark := iff_of_false (fun h => hfe (hs.end_mark.1 h).1) fun h => hfe h.1 }

theorem fe_not_halted (hr : s.runState = .idle ∨ s.runState = .running) : s.fePhase ≠ .halted := by
  intro h
  obtain ⟨h', -⟩ := hs.fe_halted h
  obtain hr | hr := hr <;> rw [hr] at h' <;> simp at h'

/-- STOP in IDLE halts both agents, which hold nothing. -/
theorem inv_stopIdle (hr : s.runState = .idle) :
    State.Inv { s with runState := .halted, fePhase := .halted, dePhase := .halted } := by
  obtain ⟨hfe, hde, hiq, hfq, -⟩ := hs.idle_empty hr
  exact { hs with
    fe_block := iff_of_true (hs.fe_block.2 (.inl hfe)) (.inr rfl)
    fe_pending := fun h => absurd (hs.fe_pending h) (by simp [hfe])
    de_frame := iff_of_false (fun h => by simpa [hde] using hs.de_frame.1 h) nofun
    de_msg := iff_of_false (fun h => by simpa [hde] using hs.de_msg.1 h) nofun
    idle_empty := nofun
    halted_de := iff_of_true rfl rfl
    halted_fe := fun _ => ⟨rfl, hfq⟩
    fe_halted := fun _ => ⟨.inr rfl, hiq⟩
    end_mark := iff_of_false (by simp [hfq]) (by simp) }

theorem inv_raise (c : FaultCode) : (s.raise c).Inv :=
  { hs with fault_reserved := raise_fault_lt hs.fault_reserved c }

/-- Counting is no part of the invariant. -/
theorem inv_count (c : Counter) (k : Nat) : (s.count c k).Inv := { hs with }

theorem inv_accept (p : List Byte) (hr : s.runState = .running) (hq : s.iq.length < s.params.iqCap) :
    State.Inv { s with iq := s.iq ++ [p] } := by
  have hfe := fe_not_halted hs (.inr hr)
  exact { hs with
    iq_cap := by simpa using hq
    idle_empty := fun h => absurd (hr.symm.trans h) nofun
    fe_halted := fun h => absurd h hfe }

theorem inv_pop {m : DecodedMessage} {q : List DecodedMessage} (h : s.oq = m :: q) : State.Inv { s with oq := q } := by
  have hcap := hs.oq_cap
  rw [h, List.length_cons] at hcap
  exact { hs with
    oq_cap := Nat.le_of_succ_le hcap
    idle_empty := fun hr => by
      obtain ⟨-, -, -, -, ho⟩ := hs.idle_empty hr
      exact absurd (h.symm.trans ho) nofun }

theorem hostEffect_inv {t : State} {i : Instr} (h : HostEffect s i t) : t.Inv := by
  cases h with
  | answer i r => exact inv_respond hs r
  | start hi hr => exact inv_respond (inv_runState hs (by simp [hr]) (fe_not_halted hs (.inl hr)) (r := .running) nofun nofun) _
  | stopRunning hi hr => exact inv_respond (inv_runState hs (by simp [hr]) (fe_not_halted hs (.inr hr)) (r := .stopping) nofun nofun) _
  | stopIdle hi hr => exact inv_respond (inv_stopIdle hs hr) _
  | reset hi => exact inv_respond (resetBlock_inv hs.params_ok) _
  | badCmd v h1 h2 h3 => exact inv_respond (inv_raise hs _) _
  | cfg hi hr v => exact { hs with cfg_reserved := cfgOfWrite_lt v }
  | cfgRefused hi hr => exact inv_respond (inv_raise hs _) _
  | accept p hr hq => exact inv_respond (inv_accept (inv_count hs _ _) p hr hq) _
  | drop p => exact inv_respond (inv_count hs _ _) _
  | pop m q h => exact inv_respond (inv_pop hs h) _

/-! ### FE keeps the invariant -/

/-- FE_TAKE takes IQ's head. -/
theorem inv_iq_tail {x : List Byte} {q : List (List Byte)} (h : s.iq = x :: q) : State.Inv { s with iq := q } := by
  have hcap := hs.iq_cap
  rw [h, List.length_cons] at hcap
  have hne : s.iq ≠ [] := by simp [h]
  exact { hs with
    iq_cap := Nat.le_of_succ_le hcap
    idle_empty := fun hr => absurd (hs.idle_empty hr).2.2.1 hne
    fe_halted := fun hp => absurd (hs.fe_halted hp).2 hne }

/-- With a block in hand FE works, and the block is neither in IDLE nor halted (R26). -/
theorem fe_working (h : s.blkLen ≠ none) :
    s.runState ≠ .idle ∧ s.runState ≠ .halted ∧ s.fePhase ≠ .idle ∧ s.fePhase ≠ .halted := by
  have hi : s.fePhase ≠ .idle := fun hp => h (hs.fe_block.2 (.inl hp))
  have hh : s.fePhase ≠ .halted := fun hp => h (hs.fe_block.2 (.inr hp))
  exact ⟨fun hr => hi (hs.idle_empty hr).1, fun hr => hh (hs.halted_fe hr).1, hi, hh⟩

/-- FE holds a block in its working phases. -/
theorem blkLen_of_fePhase {p : FePhase} (hp : s.fePhase = p) (h1 : p ≠ .idle) (h2 : p ≠ .halted) : s.blkLen ≠ none :=
  fun h => (hs.fe_block.1 h).elim (fun h => h1 (hp.symm.trans h)) fun h => h2 (hp.symm.trans h)

/-- No END is in FQ before FE has halted. -/
theorem endMark_not_mem (h : s.fePhase ≠ .halted) : FqItem.endMark ∉ s.fq := fun hm => h (hs.end_mark.1 hm).1

theorem pending_eq_nil (h : s.fePhase ≠ .emit) : s.pending = [] := by
  by_contra hp
  exact h (hs.fe_pending hp)

/-- FE with a block goes to another working phase, with frames for FE_EMIT only. -/
theorem inv_work (hb : s.blkLen ≠ none) {ps : List RawFrame} (hps : ∀ f ∈ ps, f.Ok) {p : FePhase} (h1 : p ≠ .idle) (h2 : p ≠ .halted)
    (he : ps ≠ [] → p = .emit) : State.Inv { s with pending := ps, fePhase := p } := by
  obtain ⟨hri, hrh, -, hh⟩ := fe_working hs hb
  have hend := endMark_not_mem hs hh
  exact { hs with
    pending_frames := hps
    fe_block := iff_of_false hb (not_or.2 ⟨h1, h2⟩)
    fe_pending := he
    idle_empty := fun h => absurd h hri
    halted_fe := fun h => absurd h hrh
    fe_halted := fun h => absurd h h2
    end_mark := iff_of_false hend fun h => h2 h.1 }

theorem inv_setWords {ws : List W16} (hw : ws.length = s.wordCount) : (s.setWords ws).Inv :=
  { hs with
    mem_wf := memory_store_wf hs.mem_wf _
    mem_in_block := setWords_in_block hs hw }

/-- FE_MAG and FE_DEMOD write the words of the block and go on. -/
theorem inv_pass {ws : List W16} (hw : ws.length = s.wordCount) (hb : s.blkLen ≠ none) (hpd : s.pending = []) {p : FePhase}
    (h1 : p ≠ .idle) (h2 : p ≠ .halted) : State.Inv { s.setWords ws with fePhase := p } :=
  inv_work (inv_setWords hs hw) hb (ps := s.pending) hs.pending_frames h1 h2 fun h => absurd hpd h

/-- FE takes a block in hand (R129). -/
theorem inv_takeBlock (hp : s.fePhase = .idle) (hr : s.runState = .running) {x : List Byte} (hne : x ≠ [])
    (hx : x.length % 2 = 0) (hm : x.length ≤ s.params.maxBlockBytes) :
    State.Inv { s with mem := s.mem.store x, blkLen := some x.length, fePhase := .mag } := by
  have hnone : s.blkLen = none := hs.fe_block.2 (.inl hp)
  have hpos : 0 < x.length := List.length_pos_iff.2 hne
  have hpd : s.pending = [] := pending_eq_nil hs (by simp [hp])
  have hend := endMark_not_mem hs (by simp [hp])
  exact { hs with
    mem_wf := memory_store_wf hs.mem_wf x
    mem_in_block := mem_store_lt (fun c hc => absurd (hs.mem_in_block c hc) (by simp [hnone])) (Nat.le_refl _)
    blk_len := fun n hn => by
      cases hn
      exact ⟨hx, by omega, hm⟩
    fe_block := iff_of_false nofun nofun
    fe_pending := fun h => absurd hpd h
    idle_empty := fun h => absurd (hr.symm.trans h) nofun
    halted_fe := fun h => absurd (hr.symm.trans h) nofun
    fe_halted := nofun
    end_mark := iff_of_false hend nofun }

/-- A block is done with its last frame (R130). -/
theorem inv_blockDone (hp : s.fePhase = .emit) (hq : s.pending = []) :
    State.Inv { s with fePhase := .idle, blkLen := none, mem := [] } := by
  obtain ⟨hri, hrh, -, hh⟩ := fe_working hs (blkLen_of_fePhase hs hp nofun nofun)
  have hend := endMark_not_mem hs hh
  exact { hs with
    mem_wf := memory_wf_nil
    mem_in_block := nofun
    blk_len := nofun
    fe_block := iff_of_true rfl (.inl rfl)
    fe_pending := fun h => absurd hq h
    idle_empty := fun h => absurd h hri
    halted_fe := fun h => absurd h hrh
    fe_halted := nofun
    end_mark := iff_of_false hend nofun }

/-- What FQ ends in, after an item has entered. -/
theorem endMark_not_mem_of_append (h : s.fePhase ≠ .halted) {y x : FqItem} {q : List FqItem} (hq : s.fq ++ [y] = q ++ [x]) :
    FqItem.endMark ∉ q := by
  rw [← (List.append_inj' hq rfl).1]
  exact endMark_not_mem hs h

/-- A well-formed frame enters FQ (R130). -/
theorem inv_emitFrame (hb : s.blkLen ≠ none) {f : RawFrame} (hf : f.Ok) (hc : s.fq.length < s.params.fqCap) :
    State.Inv { s with fq := s.fq ++ [.frame f] } := by
  obtain ⟨hri, hrh, -, hh⟩ := fe_working hs hb
  have hlast := fun q x => endMark_not_mem_of_append hs hh (y := .frame f) (q := q) (x := x)
  exact { hs with
    fq_cap := by simpa using hc
    fq_frames := fun g hg => by
      obtain hg | hg := List.mem_append.1 hg
      · exact hs.fq_frames g hg
      · cases List.mem_singleton.1 hg
        exact hf
    idle_empty := fun h => absurd h hri
    halted_fe := fun h => absurd h hrh
    end_mark := by simpa using hs.end_mark
    end_last := hlast }

/-- FE halts: IQ is emptied and END enters FQ (R133). -/
theorem inv_feHalt (hp : s.fePhase = .idle) (hr : s.runState = .stopping) (hc : s.fq.length < s.params.fqCap) :
    State.Inv { s with iq := [], fq := s.fq ++ [.endMark], fePhase := .halted } := by
  have hpd : s.pending = [] := pending_eq_nil hs (by simp [hp])
  have hlast := fun q x => endMark_not_mem_of_append hs (by simp [hp]) (y := .endMark) (q := q) (x := x)
  exact { hs with
    iq_cap := Nat.zero_le _
    fq_cap := by simpa using hc
    fq_frames := fun g hg => by
      obtain hg | hg := List.mem_append.1 hg
      · exact hs.fq_frames g hg
      · cases List.mem_singleton.1 hg
    fe_block := iff_of_true (hs.fe_block.2 (.inl hp)) (.inr rfl)
    fe_pending := fun h => absurd hpd h
    idle_empty := fun h => absurd (hr.symm.trans h) nofun
    halted_fe := fun h => absurd (hr.symm.trans h) nofun
    fe_halted := fun _ => ⟨.inl hr, rfl⟩
    end_mark := iff_of_true (by simp) ⟨rfl, hr⟩
    end_last := hlast }

theorem feEffect_inv {t : State} (h : FeEffect s t) : t.Inv := by
  cases h with
  | hold => exact hs
  | sentinel q hp hr hq =>
    exact inv_runState (inv_iq_tail hs hq) (by simp [hr]) (by simp [hp]) (r := .stopping) nofun nofun
  | oddBlock x q hp hr hq hx => exact inv_count (inv_raise (inv_iq_tail hs hq) _) _ _
  | bigBlock x q hp hr hq hx hm => exact inv_count (inv_raise (inv_iq_tail hs hq) _) _ _
  | take x q hp hr hq hne hx hm => exact inv_takeBlock (inv_iq_tail hs hq) hp hr hne hx hm
  | mag ws hp hw =>
    exact inv_pass hs hw (blkLen_of_fePhase hs hp nofun nofun) (pending_eq_nil hs (by simp [hp])) nofun nofun
  | demod ws hp hw =>
    exact inv_pass hs hw (blkLen_of_fePhase hs hp nofun nofun) (pending_eq_nil hs (by simp [hp])) nofun nofun
  | frame hp =>
    have hb := blkLen_of_fePhase hs hp nofun nofun
    exact inv_work (inv_count hs _ _) hb (framePassFrom_ok _ _ _ _ _) nofun nofun fun _ => rfl
  | blockDone hp hq => exact inv_blockDone (inv_count hs _ _) hp hq
  | emit f fs hp hq hc =>
    have hb := blkLen_of_fePhase hs hp nofun nofun
    have hfs : ∀ g ∈ f :: fs, g.Ok := hq ▸ hs.pending_frames
    have hrest := inv_work (inv_count hs .frmOut 1) hb (ps := fs) (fun g hg => hfs g (List.mem_cons_of_mem _ hg)) (p := s.fePhase)
      (by simp [hp]) (by simp [hp]) fun _ => hp
    exact inv_emitFrame hrest hb (hfs f List.mem_cons_self) hc
  | halt hp hr hc => exact inv_feHalt (inv_count hs _ _) hp hr hc

/-! ### DE keeps the invariant -/

/-- Nothing is in FQ in IDLE and HALTED. -/
theorem runState_of_fq (h : s.fq ≠ []) : s.runState ≠ .idle ∧ s.runState ≠ .halted :=
  ⟨fun hr => h (hs.idle_empty hr).2.2.2.1, fun hr => h (hs.halted_fe hr).2⟩

theorem frame_eq_none (h : s.dePhase ≠ .decode) : s.frame = none := by
  by_contra hf
  exact h (hs.de_frame.1 hf)

theorem msg_eq_none (h : s.dePhase ≠ .emit) : s.msg = none := by
  by_contra hm
  exact h (hs.de_msg.1 hm)

/-- END is FQ's last item, so nothing follows it. -/
theorem fq_of_endMark {q : List FqItem} (h : s.fq = .endMark :: q) : q = [] := by
  obtain rfl | ⟨q', x, rfl⟩ := List.eq_nil_or_concat q
  · rfl
  · have hlast := hs.end_last (.endMark :: q') x (by simpa using h)
    exact absurd List.mem_cons_self hlast

/-- DE takes a frame in hand (R134). -/
theorem inv_deTake (hp : s.dePhase = .idle) {f : RawFrame} {q : List FqItem} (hq : s.fq = .frame f :: q) :
    State.Inv { s with fq := q, frame := some f, dePhase := .decode } := by
  obtain ⟨hri, hrh⟩ := runState_of_fq hs (by simp [hq])
  have hmsg : s.msg = none := msg_eq_none hs (by simp [hp])
  have hcap := hs.fq_cap
  have hframes := hs.fq_frames
  have hend := hs.end_mark
  have hlast := hs.end_last
  rw [hq] at hcap hframes hend hlast
  exact { hs with
    fq_cap := Nat.le_of_succ_le hcap
    fq_frames := fun g hg => hframes g (List.mem_cons_of_mem _ hg)
    de_frame_ok := fun g hg => by
      cases hg
      exact hframes f List.mem_cons_self
    de_frame := iff_of_true nofun rfl
    de_msg := iff_of_false (fun h => h hmsg) nofun
    idle_empty := fun h => absurd h hri
    halted_de := iff_of_false hrh nofun
    halted_fe := fun h => absurd h hrh
    end_mark := by simpa using hend
    end_last := fun q' x h hm => hlast (.frame f :: q') x (congrArg (.frame f :: ·) h) (List.mem_cons_of_mem _ hm) }

/-- DE halts on END, after FE (R134, R137). -/
theorem inv_deHalt (hp : s.dePhase = .idle) {q : List FqItem} (hq : s.fq = .endMark :: q) :
    State.Inv { s with fq := q, dePhase := .halted, runState := .halted } := by
  obtain rfl := fq_of_endMark hs hq
  obtain ⟨hfe, hr⟩ := hs.end_mark.1 (by simp [hq])
  have hframe : s.frame = none := frame_eq_none hs (by simp [hp])
  have hmsg : s.msg = none := msg_eq_none hs (by simp [hp])
  exact { hs with
    fq_cap := Nat.zero_le _
    fq_frames := nofun
    de_frame := iff_of_false (fun h => h hframe) nofun
    de_msg := iff_of_false (fun h => h hmsg) nofun
    idle_empty := nofun
    halted_de := iff_of_true rfl rfl
    halted_fe := fun _ => ⟨hfe, rfl⟩
    fe_halted := fun h => ⟨.inr rfl, (hs.fe_halted h).2⟩
    end_mark := iff_of_false nofun nofun
    end_last := fun q' x h => absurd h (by simp) }

/-- DE at work is not in IDLE or HALTED. -/
theorem de_working {p : DePhase} (hp : s.dePhase = p) (h1 : p ≠ .idle) (h2 : p ≠ .halted) :
    s.runState ≠ .idle ∧ s.runState ≠ .halted :=
  ⟨fun hr => h1 (hp.symm.trans (hs.idle_empty hr).2.1), fun hr => h2 (hp.symm.trans (hs.halted_de.1 hr))⟩

/-- A decode ends with a record for DE_EMIT or with nothing (R138, R150, R156). -/
theorem inv_afterDecode {i : Instr} {f : RawFrame} (hf : Decodes s f) (c : Counter) {cache : List (Nat × CacheSlot)}
    (hc : CacheAfter s i f cache) (out : Option DecodedMessage) : (afterDecode s c cache out).Inv := by
  obtain ⟨hri, hrh⟩ := de_working hs hf.1 nofun nofun
  exact { hs with
    cache_wf := cacheAfter_wf hs hc
    cache_slots := cacheAfter_slots hs hc
    de_frame_ok := nofun
    de_frame := by cases out <;> simp [afterDecode]
    de_msg := by cases out <;> simp [afterDecode]
    idle_empty := fun h => absurd h hri
    halted_de := iff_of_false hrh (by cases out <;> simp [afterDecode]) }

/-- A record leaves DE for OQ (R135). -/
theorem inv_deEmit (hp : s.dePhase = .emit) (m : DecodedMessage) (hc : s.oq.length < s.params.oqCap) :
    State.Inv { s with oq := s.oq ++ [m], msg := none, dePhase := .idle } := by
  obtain ⟨hri, hrh⟩ := de_working hs hp nofun nofun
  have hframe : s.frame = none := frame_eq_none hs (by simp [hp])
  exact { hs with
    oq_cap := by simpa using hc
    de_frame := iff_of_false (fun h => h hframe) nofun
    de_msg := iff_of_false (fun h => h rfl) nofun
    idle_empty := fun h => absurd h hri
    halted_de := iff_of_false hrh nofun }

theorem deEffect_inv {t : State} {i : Instr} (h : DeEffect s i t) : t.Inv := by
  cases h with
  | hold => exact hs
  | halt q hp hq => exact inv_deHalt hs hp hq
  | take f q hp hq => exact inv_deTake hs hp hq
  | decode f hf st cache hc out => exact inv_afterDecode hs hf _ hc out
  | emit m hp hm hc => exact inv_deEmit (inv_count hs _ _) hp m hc

/-- The agenda and the draws are no part of the invariant. -/
theorem inv_inputs (a : List Event) (d : Nat) : State.Inv { s with agenda := a, draws := d } := { hs with }

end

/-- Settles O55: every effect of an agent keeps the invariant, and reset gives it. -/
theorem invariantKept : Obligations.InvariantKept := by
  unfold Obligations.InvariantKept
  intro s t hs h
  cases step_effect h with
  | host i u hu hn he =>
    obtain ⟨a, d, rfl⟩ := runsIn_state hu
    exact hostEffect_inv (inv_inputs hs a d) he
  | fe i u hu he =>
    obtain ⟨a, d, rfl⟩ := runsIn_state hu
    exact feEffect_inv (inv_inputs hs a d) he
  | de i u hu ha hx he =>
    obtain ⟨a, d, rfl⟩ := runsIn_state hu
    exact deEffect_inv (inv_inputs hs a d) he
  | rst rest hg ht => exact ht ▸ resetBlock_inv hs.params_ok
  | rest ht => exact ht ▸ hs

/-! ### The run state (R16) -/

/-- In HALTED both agents have halted, and no step is enabled. -/
theorem not_enabled_of_halted {s : State} (hs : s.Inv) (hr : s.runState = .halted) (i : Instr) : ¬ StepEnabled i s := by
  have hfe := (hs.halted_fe hr).1
  have hde := hs.halted_de.1 hr
  intro h
  cases h <;> simp_all

/-- The RST input and CMD RESET leave IDLE (R193, R218). -/
theorem runState_of_reset {s t : State} (h : step s = .next t) (hr : NextResets s) : t.runState = .idle := by
  obtain ⟨hp, -⟩ := step_cases h
  obtain ⟨rest, hg⟩ | ⟨e, rest, hg, hd⟩ | ⟨e, rest, hg, hd⟩ := hr
  · simp only [step, if_pos hp, fetch, hg, Host.Outcome.next.injEq] at h
    exact h ▸ rfl
  all_goals
    rw [stepRunsDecoded s e rest _ hp hg hd] at h
    cases h
    rfl

/-- The moves of RUN_STATE that R16 allows in a step from s to t. -/
def RunMove (s t : State) : Prop :=
  (t.runState = .idle ∧ NextResets s)
    ∨ (s.runState = .idle ∧ t.runState = .running ∧ (NextRuns .wr0Start s ∨ NextRuns .start s))
    ∨ (s.runState = .idle ∧ t.runState = .halted ∧ (NextRuns .wr0Stop s ∨ NextRuns .stop s))
    ∨ (s.runState = .running ∧ t.runState = .stopping
      ∧ (NextRuns .wr0Stop s ∨ NextRuns .stop s ∨ s.iq = [] :: t.iq))
    ∨ (s.runState = .stopping ∧ t.runState = .halted ∧ t.fePhase = .halted ∧ t.dePhase = .halted)

/-- A step that changes RUN_STATE makes one of the moves. -/
theorem runMove_of_step {s t : State} (hs : s.Inv) (h : step s = .next t) (hne : t.runState ≠ s.runState) : RunMove s t := by
  cases step_effect h with
  | host i u hu hn he =>
    obtain ⟨a, d, rfl⟩ := runsIn_state hu
    cases he with
    | start hi hr => exact .inr (.inl ⟨hr, rfl, nextRuns_either hi hn⟩)
    | stopIdle hi hr => exact .inr (.inr (.inl ⟨hr, rfl, nextRuns_either hi hn⟩))
    | stopRunning hi hr =>
      exact .inr (.inr (.inr (.inl ⟨hr, rfl, (nextRuns_either hi hn).imp_right .inl⟩)))
    | reset hi => exact .inl ⟨rfl, nextResets_of_runs hi hn⟩
    | _ => exact absurd rfl hne
  | fe i u hu he =>
    obtain ⟨a, d, rfl⟩ := runsIn_state hu
    cases he with
    | sentinel q hp hr hq => exact .inr (.inr (.inr (.inl ⟨hr, rfl, .inr (.inr hq)⟩)))
    | _ => exact absurd rfl hne
  | de i u hu ha hx he =>
    obtain ⟨a, d, rfl⟩ := runsIn_state hu
    cases he with
    | halt q hp hq =>
      have hend : FqItem.endMark ∈ s.fq := hq ▸ List.mem_cons_self
      obtain ⟨hfe, hr⟩ := hs.end_mark.1 hend
      exact .inr (.inr (.inr (.inr ⟨hr, rfl, hfe, rfl⟩)))
    | _ => exact absurd rfl hne
  | rst rest hg ht => exact .inl ⟨ht ▸ rfl, .inl ⟨rest, hg⟩⟩
  | rest ht => exact absurd (ht ▸ rfl) hne

/-- Settles O57: of the agents' effects, only those of R16's table write RUN_STATE. -/
theorem runStateTransitions : Obligations.RunStateTransitions := by
  unfold Obligations.RunStateTransitions
  exact fun s t hs h => ⟨runMove_of_step hs h, runState_of_reset h, not_enabled_of_halted hs⟩

end Sys2Proof.Machine
end

section
/-! The searches for one and for two flipped bits (R139, R143, R144): the weights of at most 112 bits, and their pairs, are pairwise
distinct, so each search answers the one pattern of its syndrome. -/

namespace Sys2Proof.Machine

/-! ### The remainders T(e) -/

/-- Multiplication by x is linear. -/
theorem crcNext_xor (x y : W24) : crcNext (x ^^^ y) = crcNext x ^^^ crcNext y := by
  unfold crcNext
  rw [BitVec.getLsbD_xor, BitVec.shiftLeft_xor_distrib]
  cases x.getLsbD 23 <;> cases y.getLsbD 23 <;>
    simp only [Bool.xor_false, Bool.xor_true, Bool.not_true, Bool.not_false, Bool.false_eq_true, if_true, if_false]
  · ac_rfl
  · ac_rfl
  · rw [BitVec.xor_assoc, BitVec.xor_comm _ (y <<< 1 ^^^ _), BitVec.xor_assoc, BitVec.xor_self, BitVec.xor_zero]

/-- G has the term 1, so x is no divisor of 0 modulo G. -/
theorem crcNext_eq_zero {x : W24} (h : crcNext x = 0) : x = 0 := by
  have hbit : ∀ i, (crcNext x).getLsbD i = false := by simp [h]
  unfold crcNext at hbit
  split at hbit
  · exact absurd (hbit 0) (by simp)
  next h23 =>
    refine BitVec.eq_of_getLsbD_eq fun i hi => ?_
    by_cases hi' : i = 23
    · subst hi'
      simpa using h23
    · have h1 : i + 1 < 24 := by omega
      simpa [h1, BitVec.getLsbD_eq_getElem hi] using hbit (i + 1)

theorem crcNext_injective : Function.Injective crcNext := by
  intro x y h
  rw [← BitVec.xor_eq_zero_iff] at h ⊢
  exact crcNext_eq_zero ((crcNext_xor x y).trans h)

theorem crcNext_iterate_xor (k : Nat) (x y : W24) : crcNext^[k] (x ^^^ y) = crcNext^[k] x ^^^ crcNext^[k] y := by
  induction k generalizing x y with
  | zero => rfl
  | succ k ih => simp only [Function.iterate_succ_apply, crcNext_xor, ih]

/-- T(e + k) is T(e) times x^k. -/
theorem crcT_add (e k : Nat) : crcT (e + k) = crcNext^[k] (crcT e) := by
  induction k with
  | zero => rfl
  | succ k ih => rw [Function.iterate_succ_apply', ← ih]; rfl

theorem crcT_ne_zero (e : Nat) : crcT e ≠ 0 := by
  intro h
  have hz : crcNext^[e] (1 : W24) = crcNext^[e] 0 := by
    have h0 : crcNext^[e] (0 : W24) = 0 := Function.iterate_fixed (by decide) e
    rw [h0, ← h, ← Nat.zero_add e, crcT_add, Nat.zero_add]
    rfl
  exact absurd (crcNext_injective.iterate e hz) (by decide)

theorem crcPowers_eq (k e : Nat) (acc : List W24) :
    crcPowers k (crcT e) acc = (List.range k).map (fun i => crcT (e + k - 1 - i)) ++ acc := by
  induction k generalizing e acc with
  | zero => rfl
  | succ k ih =>
    have hk : e + (k + 1) - 1 - k = e := by omega
    have he : ∀ i, e + (k + 1) - 1 - i = e + 1 + k - 1 - i := fun i => by omega
    rw [List.range_succ, List.map_append, List.map_singleton, hk, List.append_assoc, List.singleton_append]
    simp only [he]
    exact ih (e + 1) (crcT e :: acc)

/-- The weight of position j0 is T(n − 1 − j0) (R139). -/
theorem crcWeights_eq (n : Nat) : crcWeights n = (List.range n).map fun j0 => crcT (n - 1 - j0) := by
  have h := crcPowers_eq n 0 []
  simp only [Nat.zero_add, List.append_nil] at h
  exact h

/-! ### Sums of up to four remainders -/

/-- T(111), …, T(1) and 0. -/
def lowPowers : List W24 := crcPowers 111 (crcT 1) [0]

theorem zero_mem_lowPowers : (0 : W24) ∈ lowPowers := by
  rw [lowPowers, crcPowers_eq]
  simp

theorem crcT_mem_lowPowers {e : Nat} (h0 : 0 < e) (h : e < 112) : crcT e ∈ lowPowers := by
  rw [lowPowers, crcPowers_eq, List.mem_append, List.mem_map]
  exact .inl ⟨111 - e, List.mem_range.2 (by omega), by congr 1; omega⟩

/-- The set of the residues modulo m, as the bits of a number. -/
def residueSet (m : Nat) (ws : List W24) : Nat := ws.foldl (fun acc w => acc ||| 1 <<< (w.toNat % m)) 0

/-- The residues modulo 68240 tell every T(e) from every 1 + T(e) + T(e'). -/
theorem residues_of_lowPowers :
    (lowPowers.all fun z => (residueSet 68240 lowPowers).testBit (z.toNat % 68240)) = true
      ∧ (lowPowers.all fun x => lowPowers.all fun y =>
          !(residueSet 68240 lowPowers).testBit ((1 ^^^ x ^^^ y : W24).toNat % 68240)) = true := by
  constructor <;> decide +kernel

/-- No sum of at most three of T(1), …, T(111) is 1. -/
theorem lowPowers_sum_ne_one {x y z : W24} (hx : x ∈ lowPowers) (hy : y ∈ lowPowers) (hz : z ∈ lowPowers) :
    1 ≠ x ^^^ y ^^^ z := by
  intro h
  obtain ⟨hin, hout⟩ := residues_of_lowPowers
  have hz' : (1 ^^^ x ^^^ y : W24) = z :=
    calc (1 ^^^ x ^^^ y : W24) = z ^^^ (x ^^^ y) ^^^ (x ^^^ y) := by rw [BitVec.xor_assoc, h, BitVec.xor_comm (x ^^^ y) z]
      _ = z := by rw [BitVec.xor_assoc, BitVec.xor_self, BitVec.xor_zero]
  have h1 := List.all_eq_true.1 hin z hz
  have h2 := List.all_eq_true.1 (List.all_eq_true.1 hout x hx) y hy
  rw [hz', h1] at h2
  exact absurd h2 (by decide)

/-- 0 or some T(e) with m < e < 112. -/
def IsTermAbove (m : Nat) (x : W24) : Prop := x = 0 ∨ ∃ e, m < e ∧ e < 112 ∧ x = crcT e

theorem isTermAbove_crcT {m e : Nat} (h : m < e) (he : e < 112) : IsTermAbove m (crcT e) := .inr ⟨e, h, he, rfl⟩

theorem isTermAbove_zero (m : Nat) : IsTermAbove m 0 := .inl rfl

/-- A term above m is x^m times a low power. -/
theorem exists_lowPower {m : Nat} {x : W24} (h : IsTermAbove m x) : ∃ y ∈ lowPowers, x = crcNext^[m] y := by
  obtain rfl | ⟨e, hm, he, rfl⟩ := h
  · exact ⟨0, zero_mem_lowPowers, (Function.iterate_fixed (by decide) m).symm⟩
  · refine ⟨crcT (e - m), crcT_mem_lowPowers (by omega) (by omega), ?_⟩
    rw [← crcT_add]
    congr 1
    omega

/-- T(m) is no sum of at most three later remainders below 112: the code of G has no word of weight below five in 112 bits. -/
theorem crcT_ne_sum {m : Nat} {x y z : W24} (hx : IsTermAbove m x) (hy : IsTermAbove m y) (hz : IsTermAbove m z) :
    crcT m ≠ x ^^^ y ^^^ z := by
  obtain ⟨x', hx', rfl⟩ := exists_lowPower hx
  obtain ⟨y', hy', rfl⟩ := exists_lowPower hy
  obtain ⟨z', hz', rfl⟩ := exists_lowPower hz
  rw [← crcNext_iterate_xor, ← crcNext_iterate_xor, ← Nat.zero_add m, crcT_add, Nat.zero_add]
  exact fun h => lowPowers_sum_ne_one hx' hy' hz' (crcNext_injective.iterate m h)

/-- The remainders below 112 are pairwise distinct. -/
theorem crcT_inj {a b : Nat} (ha : a < 112) (hb : b < 112) (h : crcT a = crcT b) : a = b := by
  rcases Nat.lt_trichotomy a b with hab | hab | hab
  · exact absurd (by simpa using h) (crcT_ne_sum (isTermAbove_crcT hab hb) (isTermAbove_zero a) (isTermAbove_zero a))
  · exact hab
  · exact absurd (by simpa using h.symm) (crcT_ne_sum (isTermAbove_crcT hab ha) (isTermAbove_zero b) (isTermAbove_zero b))

/-- No sum of two remainders is a remainder. -/
theorem crcT_xor_ne_crcT {a b c : Nat} (hab : a < b) (hb : b < 112) (hc : c < 112) : crcT a ^^^ crcT b ≠ crcT c := by
  intro h
  rcases Nat.lt_trichotomy a c with hac | rfl | hac
  · refine absurd ?_ (crcT_ne_sum (isTermAbove_crcT hab hb) (isTermAbove_crcT hac hc) (isTermAbove_zero a))
    rw [← h, BitVec.xor_comm (crcT a), ← BitVec.xor_assoc, BitVec.xor_self]
    simp
  · refine crcT_ne_zero b ?_
    simpa using h
  · refine absurd ?_ (crcT_ne_sum (isTermAbove_crcT hac (by omega)) (isTermAbove_crcT (by omega) hb) (isTermAbove_zero c))
    rw [h]
    simp

/-- A pair of remainders is no pair that starts later. -/
theorem crcT_pair_ne {a b c d : Nat} (hac : a < c) (hab : a < b) (hcd : c < d) (hb : b < 112) (hd : d < 112) :
    crcT a ^^^ crcT b ≠ crcT c ^^^ crcT d := by
  intro h
  refine absurd ?_ (crcT_ne_sum (isTermAbove_crcT hac (by omega)) (isTermAbove_crcT (by omega) hd) (isTermAbove_crcT hab hb))
  rw [← h, BitVec.xor_assoc, BitVec.xor_self, BitVec.xor_zero]

/-- The sums of two remainders are pairwise distinct. -/
theorem crcT_pair_inj {a b c d : Nat} (hab : a < b) (hcd : c < d) (hb : b < 112) (hd : d < 112)
    (h : crcT a ^^^ crcT b = crcT c ^^^ crcT d) : a = c ∧ b = d := by
  rcases Nat.lt_trichotomy a c with hac | rfl | hac
  · exact absurd h (crcT_pair_ne hac hab hcd hb hd)
  · exact ⟨rfl, crcT_inj hb hd (by simpa using h)⟩
  · exact absurd h.symm (crcT_pair_ne hac hcd hab hd hb)

/-! ### The searches -/

/-- The search for a weight is the search for its position. -/
theorem findWeight_eq_find? (x : W24) (t : Nat → W24) (k a : Nat) :
    findWeight x ((List.range' a k).map t) a = (List.range' a k).find? fun j => t j == x := by
  induction k generalizing a with
  | zero => rfl
  | succ k ih =>
    rw [List.range'_succ, List.map_cons, findWeight, List.find?_cons]
    by_cases h : t a = x
    · simp [h]
    · simp only [beq_eq_false_iff_ne.2 h, if_neg h, ih]

theorem findWeight_some {x : W24} {t : Nat → W24} {k a j : Nat} (h : findWeight x ((List.range' a k).map t) a = some j) :
    a ≤ j ∧ j < a + k ∧ t j = x := by
  rw [findWeight_eq_find?] at h
  have hm := List.mem_range'_1.1 (List.mem_of_find?_eq_some h)
  exact ⟨hm.1, hm.2, by simpa using List.find?_some h⟩

theorem findWeight_none {x : W24} {t : Nat → W24} {k a : Nat} (h : findWeight x ((List.range' a k).map t) a = none) {j : Nat}
    (h1 : a ≤ j) (h2 : j < a + k) : t j ≠ x := by
  rw [findWeight_eq_find?, List.find?_eq_none] at h
  simpa using h j (List.mem_range'_1.2 ⟨h1, h2⟩)

theorem xor_eq_iff_eq_xor {a b x : W24} : a ^^^ b = x ↔ b = a ^^^ x := by
  constructor <;> rintro rfl <;> rw [← BitVec.xor_assoc, BitVec.xor_self, BitVec.zero_xor]

theorem findPair_some {x : W24} {t : Nat → W24} {k a i j : Nat} (h : findPair x ((List.range' a k).map t) a = some (i, j)) :
    a ≤ i ∧ i < j ∧ j < a + k ∧ t i ^^^ t j = x := by
  induction k generalizing a with
  | zero => cases h
  | succ k ih =>
    rw [List.range'_succ, List.map_cons, findPair] at h
    split at h
    next hw =>
      cases h
      obtain ⟨h1, h2, hx⟩ := findWeight_some hw
      exact ⟨Nat.le_refl _, h1, by omega, xor_eq_iff_eq_xor.2 hx⟩
    next =>
      obtain ⟨h1, h2, h3, hx⟩ := ih h
      exact ⟨by omega, h2, by omega, hx⟩

theorem findPair_none {x : W24} {t : Nat → W24} {k a : Nat} (h : findPair x ((List.range' a k).map t) a = none) {i j : Nat}
    (h1 : a ≤ i) (h2 : i < j) (h3 : j < a + k) : t i ^^^ t j ≠ x := by
  induction k generalizing a with
  | zero => omega
  | succ k ih =>
    rw [List.range'_succ, List.map_cons, findPair] at h
    split at h
    · cases h
    next hw =>
      obtain rfl | hlt := Nat.eq_or_lt_of_le h1
      · exact mt xor_eq_iff_eq_xor.1 (findWeight_none hw h2 (by omega))
      · exact ih h hlt (by omega)

theorem crcWeights_eq_range' (n : Nat) : crcWeights n = (List.range' 0 n).map fun j0 => crcT (n - 1 - j0) := by
  rw [crcWeights_eq, List.range_eq_range']

/-- FixOne finds the one position of its weight (R143). -/
theorem fixOne_eq_some_iff {n : Nat} (hn : n ≤ 112) {x : W24} {j0 : Nat} :
    fixOne n x = some j0 ↔ j0 < n ∧ crcT (n - 1 - j0) = x := by
  unfold fixOne
  rw [crcWeights_eq_range']
  constructor
  · intro h
    obtain ⟨-, hj, hx⟩ := findWeight_some h
    exact ⟨by omega, hx⟩
  · rintro ⟨hj, hx⟩
    cases h : findWeight x ((List.range' 0 n).map fun j0 => crcT (n - 1 - j0)) 0 with
    | none => exact absurd hx (findWeight_none h (Nat.zero_le _) (by omega))
    | some j =>
      obtain ⟨-, hj', hx'⟩ := findWeight_some h
      have he := crcT_inj (by omega) (by omega) (hx'.trans hx.symm)
      congr 1
      omega

theorem fixOne_eq_none_iff {n : Nat} (hn : n ≤ 112) {x : W24} :
    fixOne n x = none ↔ ∀ j0, j0 < n → crcT (n - 1 - j0) ≠ x := by
  simp only [Option.eq_none_iff_forall_ne_some, ne_eq, fixOne_eq_some_iff hn, not_and]

/-- FixTwo finds the one pair of its sum of weights (R144). -/
theorem fixTwo_eq_some_iff {n : Nat} (hn : n ≤ 112) {x : W24} {j0 j1 : Nat} :
    fixTwo n x = some (j0, j1) ↔ j0 < j1 ∧ j1 < n ∧ crcT (n - 1 - j0) ^^^ crcT (n - 1 - j1) = x := by
  unfold fixTwo
  rw [crcWeights_eq_range']
  constructor
  · intro h
    obtain ⟨-, hij, hj, hx⟩ := findPair_some h
    exact ⟨hij, by omega, hx⟩
  · rintro ⟨hij, hj, hx⟩
    cases h : findPair x ((List.range' 0 n).map fun j0 => crcT (n - 1 - j0)) 0 with
    | none => exact absurd hx (findPair_none h (Nat.zero_le _) hij (by omega))
    | some e =>
      obtain ⟨i, j⟩ := e
      obtain ⟨-, hij', hj', hx'⟩ := findPair_some h
      have hsum : crcT (n - 1 - j) ^^^ crcT (n - 1 - i) = crcT (n - 1 - j1) ^^^ crcT (n - 1 - j0) := by
        rw [BitVec.xor_comm, hx', ← hx, BitVec.xor_comm]
      obtain ⟨h1, h0⟩ := crcT_pair_inj (by omega) (by omega) (by omega) (by omega) hsum
      congr 2 <;> omega

theorem fixTwo_eq_none_iff {n : Nat} (hn : n ≤ 112) {x : W24} :
    fixTwo n x = none ↔ ∀ j0 j1, j0 < j1 → j1 < n → crcT (n - 1 - j0) ^^^ crcT (n - 1 - j1) ≠ x := by
  simp only [Option.eq_none_iff_forall_ne_some, ne_eq, Prod.forall, fixTwo_eq_some_iff hn, not_and]

/-- A sum of two weights is no weight, and not 0 (R144). -/
theorem weight_pair_ne {n j0 j1 : Nat} (hn : n ≤ 112) (h01 : j0 < j1) (h1 : j1 < n) :
    crcT (n - 1 - j0) ^^^ crcT (n - 1 - j1) ≠ 0 ∧ ∀ j, j < n → crcT (n - 1 - j) ≠ crcT (n - 1 - j0) ^^^ crcT (n - 1 - j1) := by
  constructor
  · intro h
    have := crcT_inj (by omega) (by omega) (BitVec.xor_eq_zero_iff.1 h)
    omega
  · intro j hj h
    rw [BitVec.xor_comm] at h
    exact crcT_xor_ne_crcT (by omega) (by omega) (by omega) h.symm

end Sys2Proof.Machine
end

section
/-! Decoding by class (44_crc_correction.md): the record and the next state of a decode follow from its verdict, and the verdicts of PI, AP
and OTHER frames from their syndromes. -/

namespace Sys2Proof.Machine

/-! ### The checksum part of a record (R159) -/

section
variable {r : DecodedMessage} {st : CrcStatus} {cls : DfClass} {x : W24} {e : List Nat} {a : W24} {k : AddrKind} {m : List Byte}
  (h : r.Checked st cls x e a k m) (b : List Byte)
include h

theorem altitude13_checked : (altitude13 b r).Checked st cls x e a k m := by
  unfold altitude13
  dsimp only
  split <;> exact h

theorem altitude12_checked : (altitude12 b r).Checked st cls x e a k m := by
  unfold altitude12
  dsimp only
  split <;> exact h

theorem meFields_checked : (meFields b r).Checked st cls x e a k m := by
  unfold meFields
  dsimp only
  split
  · exact h
  · split
    · exact altitude12_checked h b
    · split <;> exact h

/-- The field rules leave the checksum part as it is (R161). -/
theorem formatFields_checked : (formatFields b r).Checked st cls x e a k m := by
  unfold formatFields
  dsimp only
  split
  · exact altitude13_checked h b
  · split
    · exact altitude13_checked h b
    · split
      · exact h
      · split
        · exact meFields_checked (r := meHeader b r) h b
        · exact h

end

/-- A record's checksum part is its verdict's (R159). -/
theorem decodeFields_checked (cfg : W32) (v : Verdict) :
    (decodeFields cfg v).Checked v.status v.cls v.syn v.flips v.addr v.addrKind v.m :=
  formatFields_checked (r := commonFields cfg v) ⟨rfl, rfl, rfl, rfl, rfl, rfl, rfl, rfl, rfl⟩ v.m

/-! ### A decode by its verdict -/

theorem exec_decodesFrame {s : State} {f : RawFrame} {i : Instr} (hd : Decodes s f) (hi : DecodesFrame i f) :
    exec i s = exec .deDecode s := by
  obtain rfl | hb := hi
  · rfl
  · obtain ⟨-, -, -, hx⟩ | ⟨hn, -⟩ := exec_dfRow hb s
    · exact hx
    · exact absurd rfl (hn f hd)

section
variable {s : State} {f : RawFrame} {i : Instr} (hd : Decodes s f) (hi : DecodesFrame i f) {v : Verdict}
  (hv : validate s f s.now = v)
include hd hi hv

/-- A message that passed, or that failed with CRC_CHECK_EN off, is emitted with its verdict's checksum part (R148, R150). -/
theorem exec_emits (he : v.status ≠ .failed ∨ cfgCrcCheck s.cfg = false) :
    ∃ r, exec i s = .next (afterDecode s (statusCounter v.status) v.cache (some r))
      ∧ r.Checked v.status v.cls v.syn v.flips v.addr v.addrKind v.m := by
  have hem : v.emitted s.cfg = true := by
    rw [← Bool.not_eq_false, emitted_eq_false]
    rintro ⟨hst, hc⟩
    exact he.elim (fun h => h hst) fun h => absurd (h.symm.trans hc) (by decide)
  refine ⟨decodeFields s.cfg v, ?_, decodeFields_checked s.cfg v⟩
  rw [exec_decodesFrame hd hi, exec_deDecode hd, hv, decodeOut, if_pos hem]

/-- A message that failed with CRC_CHECK_EN on is dropped (R148). -/
theorem exec_drops (hst : v.status = .failed) (hc : cfgCrcCheck s.cfg = true) :
    exec i s = .next (afterDecode s .msgFail v.cache none) := by
  have hem : v.emitted s.cfg = false := emitted_eq_false.2 ⟨hst, hc⟩
  rw [exec_decodesFrame hd hi, exec_deDecode hd, hv, decodeOut, hem, hst]
  rfl

end

/-! ### PI -/

theorem correctPi_of_zero (cfg : W32) (n : Nat) : correctPi cfg n 0 = (.directOk, []) := by
  rw [correctPi, if_pos rfl]

section
variable {cfg : W32} {n : Nat} {x : W24} (hn : n ≤ 112)
include hn

/-- A weight equal to the syndrome is corrected (R143). -/
theorem correctPi_of_weight {j0 : Nat} (h1 : cfgFix1 cfg = true) (hj : j0 < n) (hx : crcT (n - 1 - j0) = x) :
    correctPi cfg n x = (.fixed1, [j0]) := by
  have hx0 : x ≠ 0 := hx ▸ crcT_ne_zero _
  have hone : fixOne n x = some j0 := (fixOne_eq_some_iff hn).2 ⟨hj, hx⟩
  rw [correctPi, if_neg hx0, if_pos h1, hone]

/-- A pair of weights equal to the syndrome is corrected (R144). -/
theorem correctPi_of_pair {j0 j1 : Nat} (h1 : cfgFix1 cfg = true) (h2 : cfgFix2 cfg = true) (h01 : j0 < j1) (hj : j1 < n)
    (hx : crcT (n - 1 - j0) ^^^ crcT (n - 1 - j1) = x) : correctPi cfg n x = (.fixed2, [j0, j1]) := by
  obtain ⟨hx0, hne⟩ := weight_pair_ne hn h01 hj
  rw [hx] at hx0 hne
  have hone : fixOne n x = none := (fixOne_eq_none_iff hn).2 hne
  have htwo : fixTwo n x = some (j0, j1) := (fixTwo_eq_some_iff hn).2 ⟨h01, hj, hx⟩
  rw [correctPi, if_neg hx0, if_pos h1, hone]
  simp only [if_pos h2, htwo]

/-- Where no enabled search finds the syndrome the frame has failed (R142). -/
theorem correctPi_of_failed (hx0 : x ≠ 0)
    (h : cfgFix1 cfg = false ∨ (∀ j0, j0 < n → crcT (n - 1 - j0) ≠ x)
      ∧ (cfgFix2 cfg = false ∨ ∀ j0 j1, j0 < j1 → j1 < n → crcT (n - 1 - j0) ^^^ crcT (n - 1 - j1) ≠ x)) :
    correctPi cfg n x = (.failed, []) := by
  rw [← fixOne_eq_none_iff hn, ← fixTwo_eq_none_iff hn] at h
  rw [correctPi, if_neg hx0]
  obtain h1 | ⟨hone, h2 | htwo⟩ := h
  · simp [h1]
  · simp [hone, h2]
  · simp [hone, htwo]

end

theorem frameLen_bits_le (l : FrameLen) : l.bits ≤ 112 := by cases l <;> decide

/-- Settles O42: the correction of each case of R142–R144 gives the verdict, and the verdict the record and the next state. -/
theorem piDecode : Obligations.PiDecode := by
  unfold Obligations.PiDecode
  intro s f i hd hi hdf n x t noSingle noPair
  have hn : n ≤ 112 := frameLen_bits_le f.len
  have hv {st : CrcStatus} {e : List Nat} (h : correctPi s.cfg n x = (st, e)) :
      validate s f s.now = piVerdict s f s.now st e := (validate_of_pi hdf s _).trans (validatePi_eq h _)
  refine ⟨fun hx => ?_, fun j0 h1 hj hx => ?_, fun j0 j1 h1 h2 h01 hj hx => ?_, fun hx hno => ?_⟩
  · have hc : correctPi s.cfg n x = (.directOk, []) := by rw [hx, correctPi_of_zero]
    exact exec_emits hd hi (hv hc) (.inl nofun)
  · exact exec_emits hd hi (hv (correctPi_of_weight hn h1 hj hx)) (.inl nofun)
  · exact exec_emits hd hi (hv (correctPi_of_pair hn h1 h2 h01 hj hx)) (.inl nofun)
  · have hc := hv (correctPi_of_failed hn hx hno)
    exact ⟨fun hcrc => exec_drops hd hi hc rfl hcrc, fun hcrc => exec_emits hd hi hc (.inr hcrc)⟩

/-! ### AP -/

/-- CacheSeen asks for the slot, the address and the age (R157). -/
theorem cacheSeen_iff {p : Params} {c : List (Nat × CacheSlot)} {a : W24} {t : W32} :
    cacheSeen p c a t = true ↔ (cacheRead c (cacheSlot p a)).valid = true ∧ (cacheRead c (cacheSlot p a)).addr = a
      ∧ (t - (cacheRead c (cacheSlot p a)).ts).toNat ≤ p.ttl := by
  simp [cacheSeen]

/-- The verdict on an AP frame whose address the cache has seen, or has not (R145). -/
def apVerdict (s : State) (f : RawFrame) (st : CrcStatus) (k : AddrKind) : Verdict :=
  { m := f.bytes, len := f.len, status := st, cls := .ap, syn := syndrome f.len.bits f.bytes, flips := [],
    addr := syndrome f.len.bits f.bytes, addrKind := k, cache := s.cache }

theorem validateAp_of_seen {s : State} {f : RawFrame} {t : W32}
    (h : cacheSeen s.params s.cache (syndrome f.len.bits f.bytes) t = true) :
    validateAp s f t = apVerdict s f .apRecovered .apRecovered := by
  simp [validateAp, apVerdict, h]

theorem validateAp_of_not_seen {s : State} {f : RawFrame} {t : W32}
    (h : ¬ cacheSeen s.params s.cache (syndrome f.len.bits f.bytes) t = true) :
    validateAp s f t = apVerdict s f .failed .apCandidate := by
  simp [validateAp, apVerdict, h]

/-- Settles O43: the verdict is recovered where the cache has seen the syndrome, failed where it has not. -/
theorem apDecode : Obligations.ApDecode := by
  unfold Obligations.ApDecode
  intro s f i hd hi hdf x e seen
  have hv (v : Verdict) (h : validateAp s f s.now = v) : validate s f s.now = v := (validate_of_ap hdf s _).trans h
  refine ⟨fun h => ?_, fun h hc => ?_, fun h hc => ?_⟩
  · exact exec_emits hd hi (hv _ (validateAp_of_seen (cacheSeen_iff.2 h))) (.inl nofun)
  · exact exec_drops hd hi (hv _ (validateAp_of_not_seen (mt cacheSeen_iff.1 h))) rfl hc
  · exact exec_emits hd hi (hv _ (validateAp_of_not_seen (mt cacheSeen_iff.1 h))) (.inr hc)

/-! ### OTHER -/

/-- The verdict on a frame of an unassigned format with the syndrome x (R146). -/
def otherVerdict (s : State) (f : RawFrame) (st : CrcStatus) (x : W24) : Verdict :=
  { m := f.bytes, len := f.len, status := st, cls := .other, syn := x, flips := [], addr := 0, addrKind := .none, cache := s.cache }

theorem validateOther_of_zero {s : State} {f : RawFrame} (h : syndrome f.len.bits f.bytes = 0) (t : W32) :
    validateOther s f t = otherVerdict s f .directOk 0 := by
  simp only [validateOther, h, if_true, otherVerdict]

theorem validateOther_of_ne {s : State} {f : RawFrame} (h : syndrome f.len.bits f.bytes ≠ 0) (t : W32) :
    validateOther s f t = otherVerdict s f .failed (syndrome f.len.bits f.bytes) := by
  simp only [validateOther, if_neg h, otherVerdict]

/-- Settles O44: the verdict is direct where the syndrome is 0, failed elsewhere. -/
theorem otherDecode : Obligations.OtherDecode := by
  unfold Obligations.OtherDecode
  intro s f i hd hi hdf x
  have hv (v : Verdict) (h : validateOther s f s.now = v) : validate s f s.now = v := (validate_of_other hdf s _).trans h
  refine ⟨fun h => ?_, fun h hc => ?_, fun h hc => ?_⟩
  · exact exec_emits hd hi (hv _ (validateOther_of_zero h _)) (.inl nofun)
  · exact exec_drops hd hi (hv _ (validateOther_of_ne h _)) rfl hc
  · exact exec_emits hd hi (hv _ (validateOther_of_ne h _)) (.inr hc)

end Sys2Proof.Machine
end

section
/-! The register port (20_memory.md): a register access repeated changes nothing more (R53). -/

namespace Sys2Proof.Machine

/-- The row of a REG_WRITE does what RegWrite does, whatever the register and the value (R188). -/
theorem exec_decodeRegWrite (r : BitVec 6) (v : W32) (s : State) :
    exec (decodeRegWrite r v) s = .next ((regWrite r v s).respond .nothing) := by
  by_cases h0 : r = 0
  · subst h0
    by_cases h1 : v = 1
    · subst h1; rfl
    · by_cases h2 : v = 2
      · subst h2; rfl
      · by_cases h3 : v = 3
        · subst h3; rfl
        · simp only [decodeRegWrite, if_true, if_neg h1, if_neg h2, if_neg h3]
          rfl
  · by_cases h2 : r = 2
    · subst h2; rfl
    · simp only [decodeRegWrite, if_neg h0, if_neg h2]
      rfl

theorem cmdStart_again (s : State) : cmdStart ((cmdStart s).respond .nothing) = (cmdStart s).respond .nothing := by
  refine if_neg ?_
  unfold cmdStart
  split
  · exact RunState.noConfusion
  next h => exact h

theorem cmdStop_again (s : State) : cmdStop ((cmdStop s).respond .nothing) = (cmdStop s).respond .nothing := by
  unfold cmdStop
  cases h : s.runState <;> simp [h]

/-- A fault bit that is set stays as it is (R201). -/
theorem raise_again (s : State) (c : FaultCode) : ((s.raise c).respond .nothing).raise c = (s.raise c).respond .nothing := by
  simp [State.raise, State.respond, BitVec.or_assoc]

theorem cfgWrite_again (v : W32) (s : State) :
    cfgWrite v ((cfgWrite v s).respond .nothing) = (cfgWrite v s).respond .nothing := by
  obtain ⟨hr, he⟩ | ⟨hr, he⟩ := cfgWrite_cases v s <;> rw [he, cfgWrite]
  · exact if_pos hr
  · rw [respond_runState, raise_runState, if_neg hr, raise_again]

theorem command_again (v : W32) (s : State) :
    command v ((command v s).respond .nothing) = (command v s).respond .nothing := by
  obtain ⟨rfl, he⟩ | ⟨rfl, he⟩ | ⟨rfl, he⟩ | ⟨h1, h2, h3, he⟩ := command_cases v s <;> rw [he]
  · exact cmdStart_again s
  · exact cmdStop_again s
  · rfl
  · rw [command, if_neg h1, if_neg h2, if_neg h3, raise_again]

theorem regWrite_again (r : BitVec 6) (v : W32) (s : State) :
    regWrite r v ((regWrite r v s).respond .nothing) = (regWrite r v s).respond .nothing := by
  obtain ⟨rfl, he⟩ | ⟨rfl, he⟩ | ⟨h0, h2, he⟩ := regWrite_cases r v s <;> rw [he]
  · exact command_again v s
  · exact cfgWrite_again v s
  · rw [regWrite, if_neg h0, if_neg h2]

/-- A read neither sees the last response nor keeps it (R187). -/
theorem exec_rdR_respond (r : BitVec 6) (x : Response) (s : State) : exec (.rdR r) (s.respond x) = exec (.rdR r) s := rfl

/-- Settles O15: a register write after itself changes nothing, and no register shows the response a read leaves. -/
theorem portIdempotent : Obligations.PortIdempotent := by
  unfold Obligations.PortIdempotent
  refine fun s t r => ⟨fun v h => ?_, fun h => ?_⟩
  · rw [exec_decodeRegWrite] at h ⊢
    cases h
    rw [regWrite_again]
    rfl
  · cases h
    exact ⟨exec_rdR_respond r _ s, rfl⟩

end Sys2Proof.Machine
end

section
/-! The block buffer (20_memory.md): its word view, and FE_MAG word by word and lane by lane. -/

namespace Sys2Proof.Machine

/-! ### The word view of the buffer (R47) -/

/-- A word's bytes are its low and its high byte (R47, R48). -/
theorem byte_of_word (m : Memory) (k : Nat) :
    m.read (2 * k) = (m.word k).extractLsb' 0 8 ∧ m.read (2 * k + 1) = (m.word k).extractLsb' 8 8 :=
  ⟨BitVec.extractLsb'_append_eq_right.symm, BitVec.extractLsb'_append_eq_left.symm⟩

theorem memory_word_setWord {m : Memory} (h : m.wf) (k j : Nat) (v : W16) :
    (m.setWord k v).word j = if j = k then v else m.word j := by
  have hw := memory_write_wf h (2 * k) (v.extractLsb' 0 8)
  simp only [Memory.word, Memory.setWord, memory_read_write hw, memory_read_write h]
  by_cases hj : j = k
  · subst hj
    simp only [if_true, if_neg (Nat.ne_of_lt (Nat.lt_succ_self (2 * j)))]
    exact BitVec.extractLsb'_append_extractLsb' (w := 8) (len := 8)
  · have hlow : 2 * j ≠ 2 * k + 1 := by omega
    have hhigh : 2 * j + 1 ≠ 2 * k := by omega
    simp [hj, hlow, hhigh]

/-- Canonical buffers with the same words are the same buffer (R47). -/
theorem memory_word_ext {m m' : Memory} (h : m.wf) (h' : m'.wf) (he : ∀ k, m.word k = m'.word k) : m = m' := by
  refine sparse_ext h h' fun a => ?_
  obtain ⟨hl, hh⟩ := byte_of_word m (a / 2)
  obtain ⟨hl', hh'⟩ := byte_of_word m' (a / 2)
  rw [he (a / 2)] at hl hh
  obtain ha | ha : a = 2 * (a / 2) ∨ a = 2 * (a / 2) + 1 := by omega
  · rw [ha]; exact hl.trans hl'.symm
  · rw [ha]; exact hh.trans hh'.symm

theorem wordsOfBytes_getD : ∀ (bs : List Byte) (k : Nat), k < bs.length / 2 →
    (wordsOfBytes bs).getD k 0 = bs.getD (2 * k + 1) 0 ++ bs.getD (2 * k) 0
  | [], _, hk => absurd hk (by simp)
  | [_], _, hk => absurd hk (by simp)
  | _ :: _ :: _, 0, _ => rfl
  | _ :: _ :: bs, k + 1, hk => wordsOfBytes_getD bs k (by simp only [List.length_cons] at hk; omega)

theorem magWords_getD : ∀ (bs : List Byte) (k : Nat), k < bs.length / 2 →
    (magWords bs).getD k 0 = magnitude (bs.getD (2 * k) 0) (bs.getD (2 * k + 1) 0)
  | [], _, hk => absurd hk (by simp)
  | [_], _, hk => absurd hk (by simp)
  | _ :: _ :: _, 0, _ => rfl
  | _ :: _ :: bs, k + 1, hk => magWords_getD bs k (by simp only [List.length_cons] at hk; omega)

/-- A word after a store of words: the stored word inside them, the word as before past them. -/
theorem memory_word_store (m : Memory) (ws : List W16) (k : Nat) :
    (m.store (bytesOfWords ws)).word k = if k < ws.length then ws.getD k 0 else m.word k := by
  have hlen := bytesOfWords_length ws
  simp only [Memory.word, memory_read_store, hlen]
  split
  next hk =>
    rw [if_pos (by omega), if_pos (by omega), ← wordsOfBytes_getD _ k (by omega), wordsOfBytes_bytesOfWords]
  next hk => rw [if_neg (by omega), if_neg (by omega)]

/-! ### The magnitude of a pair (R87, R89) -/

theorem natAbs_sub_sq_le (x : Byte) : (x.toNat - 128 : Int).natAbs ^ 2 ≤ 128 ^ 2 := by
  have hx := x.isLt
  exact Nat.pow_le_pow_left (by omega) 2

/-- The square table as a square of the distance from 128 (R87, R89). -/
theorem sq_toNat (x : Byte) : (sq x).toNat = (x.toNat - 128 : Int).natAbs ^ 2 := by
  have hbase : (if 128 ≤ x.toNat then (x.toNat - 128) ^ 2 else (128 - x.toNat) ^ 2) = (x.toNat - 128 : Int).natAbs ^ 2 := by
    split
    next h => rw [show (x.toNat - 128 : Int).natAbs = x.toNat - 128 by omega]
    next h => rw [show (x.toNat - 128 : Int).natAbs = 128 - x.toNat by omega]
  rw [sq, hbase, BitVec.toNat_ofNat]
  exact Nat.mod_eq_of_lt ((natAbs_sub_sq_le x).trans_lt (by norm_num))

/-- A magnitude is a sum of two squares, which fits a word (R87, R90). -/
theorem magnitude_toNat (i q : Byte) : ((magnitude i q).toNat : Int) = (i.toNat - 128 : Int) ^ 2 + (q.toNat - 128 : Int) ^ 2 := by
  have hi := natAbs_sub_sq_le i
  have hq := natAbs_sub_sq_le q
  have hsum : (magnitude i q).toNat = (i.toNat - 128 : Int).natAbs ^ 2 + (q.toNat - 128 : Int).natAbs ^ 2 := by
    rw [magnitude, BitVec.toNat_add, sq_toNat, sq_toNat]
    exact Nat.mod_eq_of_lt (by omega)
  rw [hsum, Nat.cast_add, Nat.cast_pow, Nat.cast_pow, Int.natAbs_sq, Int.natAbs_sq]

/-! ### FE_MAG (R90, R91) -/

/-- What lane k of the loop computes: the magnitude of pair k (R91). -/
def laneWord (m : Memory) (k : Nat) : W16 := magnitude (m.read (2 * k)) (m.read (2 * k + 1))

/-- The loop of R91 over the lanes in the order given. -/
def runLanes (order : List Nat) (m : Memory) : Memory := order.foldl (fun b k => b.setWord k (laneWord b k)) m

/-- The buffer FE_MAG leaves: the magnitudes of the block's n bytes over them (R90). -/
def magBuffer (m : Memory) (n : Nat) : Memory := m.store (bytesOfWords (magWords (m.load n)))

/-- A lane reads its own pair alone. -/
theorem laneWord_congr {m m' : Memory} {k : Nat} (h : m.word k = m'.word k) : laneWord m k = laneWord m' k := by
  obtain ⟨hl, hh⟩ := byte_of_word m k
  obtain ⟨hl', hh'⟩ := byte_of_word m' k
  rw [laneWord, laneWord, hl, hh, hl', hh', h]

theorem runLanes_wf (order : List Nat) {m : Memory} (h : m.wf) : (runLanes order m).wf := by
  induction order generalizing m with
  | nil => exact h
  | cons k ks ih => exact ih (memory_setWord_wf h k _)

/-- After lanes without repetition, the words of those lanes are their pairs' magnitudes and every other word is as it was. -/
theorem runLanes_word {order : List Nat} (hn : order.Nodup) {m : Memory} (h : m.wf) (j : Nat) :
    (runLanes order m).word j = if j ∈ order then laneWord m j else m.word j := by
  induction order generalizing m with
  | nil => rfl
  | cons k ks ih =>
    obtain ⟨hk, hks⟩ := List.nodup_cons.1 hn
    have hword := memory_word_setWord h k j (laneWord m k)
    have hstep : (runLanes (k :: ks) m).word j =
        if j ∈ ks then laneWord (m.setWord k (laneWord m k)) j else (m.setWord k (laneWord m k)).word j :=
      ih hks (memory_setWord_wf h k _)
    rw [hstep]
    by_cases hj : j = k
    · subst hj
      simp [hk, hword]
    · rw [if_neg hj] at hword
      simp [hj, hword, laneWord_congr hword]

theorem magBuffer_wf {m : Memory} (h : m.wf) (n : Nat) : (magBuffer m n).wf := memory_store_wf h _

/-- The buffer FE_MAG leaves, word by word. -/
theorem magBuffer_word {m : Memory} (h : m.wf) (n k : Nat) :
    (magBuffer m n).word k = if k < n / 2 then laneWord m k else m.word k := by
  rw [magBuffer, memory_word_store, magWords_length, memory_load_length]
  split
  next hk =>
    rw [magWords_getD _ k (by rwa [memory_load_length]), memory_load_getD h n _ (by omega), memory_load_getD h n _ (by omega)]
    rfl
  next => rfl

theorem magBuffer_read_of_le (m : Memory) {n a : Nat} (h : n ≤ a) : (magBuffer m n).read a = m.read a := by
  rw [magBuffer, memory_read_store, if_neg]
  rw [bytesOfWords_length, magWords_length, memory_load_length]
  omega

/-- The loop leaves FE_MAG's buffer, in any order of the lanes (R50, R91). -/
theorem runLanes_eq_magBuffer {m : Memory} (h : m.wf) {n : Nat} {order : List Nat} (ho : order.Perm (List.range (n / 2))) :
    runLanes order m = magBuffer m n := by
  refine memory_word_ext (runLanes_wf order h) (magBuffer_wf h n) fun k => ?_
  rw [runLanes_word (ho.nodup_iff.2 List.nodup_range) h, magBuffer_word h]
  simp only [ho.mem_iff, List.mem_range]

/-- FE_MAG of a current block of n bytes (R90). -/
theorem exec_feMag {s : State} {n : Nat} (hp : s.fePhase = .mag) (hb : s.blkLen = some n) (hn : n % 2 = 0) :
    exec .feMag s = .next { s with mem := magBuffer s.mem n, fePhase := .demod } := by
  have hlen : 2 * s.wordCount = n := by rw [State.wordCount, hb, Option.getD_some]; omega
  have he : exec .feMag s = .next (feMag s) := by
    change whenEnabled (decide (s.fePhase = .mag)) feMag s = _
    rw [decide_eq_true hp, whenEnabled_true]
  rw [he, feMag, hlen]
  rfl

/-- Settles O20: the block's words are the lanes' magnitudes, and the store ends with the block. -/
theorem magnitudes : Obligations.Magnitudes := by
  unfold Obligations.Magnitudes
  refine fun s n hp hm hb hn => ⟨magBuffer s.mem n, exec_feMag hp hb hn, fun k hk => ?_, fun a ha => magBuffer_read_of_le _ ha⟩
  rw [magBuffer_word hm, if_pos hk, laneWord, magnitude_toNat]

/-- Settles O21: each lane reads and writes its own word alone, so in any order the loop leaves FE_MAG's buffer. -/
theorem magnitudeLanes : Obligations.MagnitudeLanes := by
  unfold Obligations.MagnitudeLanes
  intro s n hp hm hb hn order ho
  rw [exec_feMag hp hb hn, ← runLanes_eq_magBuffer hm ho]
  rfl

end Sys2Proof.Machine
end

section
/-! The queues (43_queues.md): what one step can do to IQ, FQ and OQ (R125). -/

namespace Sys2Proof.Machine

/-- The moves of IQ in a step from s to t: SUBMIT_BLOCK, FE_TAKE, and FE_HALT, which empties it and puts END into FQ (R133, R194). -/
def IqMove (s t : State) : Prop :=
  t.iq = s.iq ∨ (∃ x, t.iq = s.iq ++ [x]) ∨ (∃ x, s.iq = x :: t.iq)
    ∨ (t.iq = [] ∧ t.fePhase = .halted ∧ t.fq = s.fq ++ [.endMark])

/-- The moves of FQ in a step from s to t: FE_EMIT, FE_HALT, and DE_TAKE of a frame and of END (R130, R133, R134). -/
def FqMove (s t : State) : Prop :=
  t.fq = s.fq ∨ (∃ f, t.fq = s.fq ++ [.frame f] ∧ s.pending = f :: t.pending) ∨ (t.fq = s.fq ++ [.endMark] ∧ t.fePhase = .halted)
    ∨ (∃ f, s.fq = .frame f :: t.fq ∧ t.frame = some f) ∨ (s.fq = .endMark :: t.fq ∧ t.runState = .halted)

/-- The moves of OQ in a step from s to t: DE_EMIT and POP_MSG (R135, R195). -/
def OqMove (s t : State) : Prop :=
  t.oq = s.oq ∨ (∃ m, t.oq = s.oq ++ [m] ∧ s.msg = some m ∧ t.msg = none) ∨ ∃ m, s.oq = m :: t.oq ∧ t.resp = .record m

/-- HOST enters IQ and takes from OQ; RESET alone does more (R56). -/
theorem hostEffect_queues {s t : State} {i : Instr} (h : HostEffect s i t) :
    (i = .wr0Reset ∨ i = .reset) ∨ IqMove s t ∧ FqMove s t ∧ OqMove s t := by
  cases h with
  | reset hi => exact .inl hi
  | accept p hr hq => exact .inr ⟨.inr (.inl ⟨p, rfl⟩), .inl rfl, .inl rfl⟩
  | pop m q hq => exact .inr ⟨.inl rfl, .inl rfl, .inr (.inr ⟨m, hq, rfl⟩)⟩
  | _ => exact .inr ⟨.inl rfl, .inl rfl, .inl rfl⟩

/-- FE takes from IQ and enters FQ (R56). -/
theorem feEffect_queues {s t : State} (h : FeEffect s t) : IqMove s t ∧ FqMove s t ∧ OqMove s t := by
  cases h with
  | sentinel q hp hr hq => exact ⟨.inr (.inr (.inl ⟨[], hq⟩)), .inl rfl, .inl rfl⟩
  | oddBlock x q hp hr hq hx => exact ⟨.inr (.inr (.inl ⟨x, hq⟩)), .inl rfl, .inl rfl⟩
  | bigBlock x q hp hr hq hx hm => exact ⟨.inr (.inr (.inl ⟨x, hq⟩)), .inl rfl, .inl rfl⟩
  | take x q hp hr hq hne hx hm => exact ⟨.inr (.inr (.inl ⟨x, hq⟩)), .inl rfl, .inl rfl⟩
  | emit f fs hp hq hc => exact ⟨.inl rfl, .inr (.inl ⟨f, rfl, hq⟩), .inl rfl⟩
  | halt hp hr hc => exact ⟨.inr (.inr (.inr ⟨rfl, rfl, rfl⟩)), .inr (.inr (.inl ⟨rfl, rfl⟩)), .inl rfl⟩
  | _ => exact ⟨.inl rfl, .inl rfl, .inl rfl⟩

/-- DE takes from FQ and enters OQ (R56). -/
theorem deEffect_queues {s t : State} {i : Instr} (h : DeEffect s i t) : IqMove s t ∧ FqMove s t ∧ OqMove s t := by
  cases h with
  | halt q hp hq => exact ⟨.inl rfl, .inr (.inr (.inr (.inr ⟨hq, rfl⟩))), .inl rfl⟩
  | take f q hp hq => exact ⟨.inl rfl, .inr (.inr (.inr (.inl ⟨f, hq, rfl⟩))), .inl rfl⟩
  | emit m hp hm hc => exact ⟨.inl rfl, .inl rfl, .inr (.inl ⟨m, rfl, hm, rfl⟩)⟩
  | _ => exact ⟨.inl rfl, .inl rfl, .inl rfl⟩

/-- Settles O58: every effect of HOST, FE and DE makes one of the moves of each queue. -/
theorem queuesAreFifo : Obligations.QueuesAreFifo := by
  unfold Obligations.QueuesAreFifo
  intro s t h hnr
  change IqMove s t ∧ FqMove s t ∧ OqMove s t
  cases step_effect h with
  | host i u hu hn he =>
    obtain ⟨a, d, rfl⟩ := runsIn_state hu
    exact (hostEffect_queues he).resolve_left fun hi => hnr (nextResets_of_runs hi hn)
  | fe i u hu he =>
    obtain ⟨a, d, rfl⟩ := runsIn_state hu
    exact (feEffect_queues he :)
  | de i u hu ha hx he =>
    obtain ⟨a, d, rfl⟩ := runsIn_state hu
    exact (deEffect_queues he :)
  | rst rest hg ht => exact absurd (.inl ⟨rest, hg⟩) hnr
  | rest ht => exact ht ▸ ⟨.inl rfl, .inl rfl, .inl rfl⟩

end Sys2Proof.Machine
end

section
/-! The encodings (30_encoding.md): the encoder and the decoder are inverse, and the decoder refuses exactly the malformed words. -/

namespace Sys2Proof.Machine

/-! ### Decoding an encoded instruction -/

/-- Settles O1: the round trip of each constructor (R63, R67, R71, R74, R76). -/
theorem decodeOfEncode : Obligations.DecodeOfEncode
  | .rdR r => Laws.RoundTrip.rdR r
  | .wr0Start => Laws.RoundTrip.wr0Start
  | .wr0Stop => Laws.RoundTrip.wr0Stop
  | .wr0Reset => Laws.RoundTrip.wr0Reset
  | .wr0Undefined v => Laws.RoundTrip.wr0Undefined v
  | .wr2Cfg v => Laws.RoundTrip.wr2Cfg v
  | .wrOther r v => Laws.RoundTrip.wrOther r v
  | .submit payload => Laws.RoundTrip.submit payload
  | .pop => Laws.RoundTrip.pop
  | .start => Laws.RoundTrip.start
  | .stop => Laws.RoundTrip.stop
  | .reset => Laws.RoundTrip.reset
  | .cfgWrite q ae f1 f2 c m => Laws.RoundTrip.cfgWrite q ae f1 f2 c m
  | .rdStatus => Laws.RoundTrip.rdStatus
  | .feTake => Laws.RoundTrip.feTake
  | .feMag => Laws.RoundTrip.feMag
  | .feDemod => Laws.RoundTrip.feDemod
  | .feFrame => Laws.RoundTrip.feFrame
  | .feEmit => Laws.RoundTrip.feEmit
  | .feHalt => Laws.RoundTrip.feHalt
  | .deTake => Laws.RoundTrip.deTake
  | .deDecode => Laws.RoundTrip.deDecode
  | .deEmit => Laws.RoundTrip.deEmit
  | .df0 f3 => Laws.RoundTrip.df0 f3
  | .df1 f3 => Laws.RoundTrip.df1 f3
  | .df2 f3 => Laws.RoundTrip.df2 f3
  | .df3 f3 => Laws.RoundTrip.df3 f3
  | .df4 f3 => Laws.RoundTrip.df4 f3
  | .df5 f3 => Laws.RoundTrip.df5 f3
  | .df6 f3 => Laws.RoundTrip.df6 f3
  | .df7 f3 => Laws.RoundTrip.df7 f3
  | .df8 f3 => Laws.RoundTrip.df8 f3
  | .df9 f3 => Laws.RoundTrip.df9 f3
  | .df10 f3 => Laws.RoundTrip.df10 f3
  | .df11 f3 => Laws.RoundTrip.df11 f3
  | .df12 f3 => Laws.RoundTrip.df12 f3
  | .df13 f3 => Laws.RoundTrip.df13 f3
  | .df14 f3 => Laws.RoundTrip.df14 f3
  | .df15 f3 => Laws.RoundTrip.df15 f3
  | .df16 f3 => Laws.RoundTrip.df16 f3
  | .df17 f3 => Laws.RoundTrip.df17 f3
  | .df18 f3 => Laws.RoundTrip.df18 f3
  | .df19 f3 => Laws.RoundTrip.df19 f3
  | .df20 f3 => Laws.RoundTrip.df20 f3
  | .df21 f3 => Laws.RoundTrip.df21 f3
  | .df22 f3 => Laws.RoundTrip.df22 f3
  | .df23 f3 => Laws.RoundTrip.df23 f3
  | .df24 f3 => Laws.RoundTrip.df24 f3
  | .df25 f3 => Laws.RoundTrip.df25 f3
  | .df26 f3 => Laws.RoundTrip.df26 f3
  | .df27 f3 => Laws.RoundTrip.df27 f3
  | .df28 f3 => Laws.RoundTrip.df28 f3
  | .df29 f3 => Laws.RoundTrip.df29 f3
  | .df30 f3 => Laws.RoundTrip.df30 f3
  | .df31 f3 => Laws.RoundTrip.df31 f3
  | .meTc0 st => Laws.RoundTrip.meTc0 st
  | .meTc1 st => Laws.RoundTrip.meTc1 st
  | .meTc2 st => Laws.RoundTrip.meTc2 st
  | .meTc3 st => Laws.RoundTrip.meTc3 st
  | .meTc4 st => Laws.RoundTrip.meTc4 st
  | .meTc5 st => Laws.RoundTrip.meTc5 st
  | .meTc6 st => Laws.RoundTrip.meTc6 st
  | .meTc7 st => Laws.RoundTrip.meTc7 st
  | .meTc8 st => Laws.RoundTrip.meTc8 st
  | .meTc9 st => Laws.RoundTrip.meTc9 st
  | .meTc10 st => Laws.RoundTrip.meTc10 st
  | .meTc11 st => Laws.RoundTrip.meTc11 st
  | .meTc12 st => Laws.RoundTrip.meTc12 st
  | .meTc13 st => Laws.RoundTrip.meTc13 st
  | .meTc14 st => Laws.RoundTrip.meTc14 st
  | .meTc15 st => Laws.RoundTrip.meTc15 st
  | .meTc16 st => Laws.RoundTrip.meTc16 st
  | .meTc17 st => Laws.RoundTrip.meTc17 st
  | .meTc18 st => Laws.RoundTrip.meTc18 st
  | .meTc19St0 => Laws.RoundTrip.meTc19St0
  | .meTc19St1 => Laws.RoundTrip.meTc19St1
  | .meTc19St2 => Laws.RoundTrip.meTc19St2
  | .meTc19St3 => Laws.RoundTrip.meTc19St3
  | .meTc19St4 => Laws.RoundTrip.meTc19St4
  | .meTc19St5 => Laws.RoundTrip.meTc19St5
  | .meTc19St6 => Laws.RoundTrip.meTc19St6
  | .meTc19St7 => Laws.RoundTrip.meTc19St7
  | .meTc20 st => Laws.RoundTrip.meTc20 st
  | .meTc21 st => Laws.RoundTrip.meTc21 st
  | .meTc22 st => Laws.RoundTrip.meTc22 st
  | .meTc23 st => Laws.RoundTrip.meTc23 st
  | .meTc24 st => Laws.RoundTrip.meTc24 st
  | .meTc25 st => Laws.RoundTrip.meTc25 st
  | .meTc26 st => Laws.RoundTrip.meTc26 st
  | .meTc27 st => Laws.RoundTrip.meTc27 st
  | .meTc28 st => Laws.RoundTrip.meTc28 st
  | .meTc29 st => Laws.RoundTrip.meTc29 st
  | .meTc30 st => Laws.RoundTrip.meTc30 st
  | .meTc31 st => Laws.RoundTrip.meTc31 st

/-! ### Encoding a decoded instruction -/

/-- A transaction word is its three fields (R63). -/
theorem txn_eq_fields (w : Txn) : txnKind w ++ txnReg w ++ txnData w = w := by
  refine BitVec.eq_of_getLsbD_eq fun i hi => ?_
  simp only [txnKind, txnReg, txnData, BitVec.getLsbD_append, BitVec.getLsbD_extractLsb']
  interval_cases i <;> rfl

/-- A byte is its five high and its three low bits (R72, R76). -/
theorem byte_eq_fields (b : Byte) : (b.extractLsb' 3 5 ++ b.extractLsb' 0 3 : BitVec 8) = b := by
  revert b; decide

theorem encode_decodeRegWrite (r : BitVec 6) (v : W32) : encode (decodeRegWrite r v) = .txn (1#2 ++ r ++ v) [] := by
  unfold decodeRegWrite
  split
  next hr =>
    subst hr
    split
    next hv => rw [hv]; rfl
    · split
      next hv => rw [hv]; rfl
      · split
        next hv => rw [hv]; rfl
        · rfl
  · split
    next hr => rw [hr]; rfl
    · rfl

theorem encode_of_decodeTxn {w : Txn} {payload : List Byte} {i : Instr} (h : decodeTxn w payload = .ok i) :
    encode i = .txn w payload := by
  rw [← txn_eq_fields w]
  unfold decodeTxn at h
  split at h
  next hk =>
    split at h
    · cases h
    next hd =>
      split at h <;> cases h
      next hp => rw [hk, not_not.1 hd, not_not.1 hp]; rfl
  next h0 =>
    split at h
    next hk =>
      split at h <;> cases h
      next hp => rw [hk, not_not.1 hp, encode_decodeRegWrite]; rfl
    next h1 =>
      split at h
      next hk =>
        split at h
        · cases h
        next hr =>
          split at h <;> cases h
          next hp => rw [hk, not_not.1 hr]; simp [encode, not_not.1 hp]
      next h2 =>
        have hk : txnKind w = 3 := by
          revert h0 h1 h2
          generalize txnKind w = k
          revert k; decide
        split at h
        · cases h
        next hr =>
          split at h
          · cases h
          next hd =>
            split at h <;> cases h
            next hp => rw [hk, not_not.1 hr, not_not.1 hd, not_not.1 hp]; rfl

/-- The word of `CFG q, ae, f1, f2, c, m` is what its operands say (R67). -/
theorem cfgWord_eq_fields {w : Txn} (h : w.extractLsb' 20 20 = 0b01000010000000000000#20) :
    0b01#2 ++ 2#6 ++ cfgData (w.extractLsb' 0 8) (w.extractLsb' 8 8) (w.extractLsb' 16 1) (w.extractLsb' 17 1)
      (w.extractLsb' 18 1) (w.extractLsb' 19 1) = w := by
  refine BitVec.eq_of_getLsbD_eq fun i hi => ?_
  have hh : 20 ≤ i → w.getLsbD i = (0b01000010000000000000#20).getLsbD (i - 20) := by
    intro h20
    rw [← h, BitVec.getLsbD_extractLsb', decide_eq_true (by omega), Bool.true_and, Nat.add_sub_cancel' h20]
  simp only [cfgData, BitVec.getLsbD_append, BitVec.getLsbD_extractLsb']
  by_cases h20 : 20 ≤ i
  · rw [hh h20]
    interval_cases i <;> rfl
  · interval_cases i <;> rfl

theorem encode_of_decodePseudo {w : Txn} {i : Instr} (h : decodePseudo w = .ok i) : encode i = .pseudo w := by
  unfold decodePseudo at h
  repeat (split at h; next hw => cases h; rw [hw]; rfl)
  split at h
  next hw =>
    cases h
    exact congrArg Encoded.pseudo (cfgWord_eq_fields hw)
  next => cases h

theorem encode_of_decodeLabel {b : Byte} {i : Instr} (h : decodeLabel b = .ok i) : encode i = .label b := by
  unfold decodeLabel at h
  repeat (split at h; next hb => cases h; rw [hb]; rfl)
  cases h

theorem encode_ofDf (df : BitVec 5) (f3 : BitVec 3) : encode (.ofDf df f3) = .dfByte (df ++ f3) := by
  revert df f3; decide

theorem encode_ofMe (tc : BitVec 5) (st : BitVec 3) : encode (.ofMe tc st) = .meByte (tc ++ st) := by
  revert tc st; decide

/-- Settles O2: each format's fields are read in full, and the encoder writes them back. -/
theorem encodeOfDecode : Obligations.EncodeOfDecode := by
  unfold Obligations.EncodeOfDecode
  refine fun e i h => ⟨?_, decode_wellFormed h⟩
  cases e with
  | txn w payload => exact encode_of_decodeTxn h
  | pseudo w => exact encode_of_decodePseudo h
  | label b => exact encode_of_decodeLabel h
  | dfByte b => cases h; exact (encode_ofDf _ _).trans (congrArg _ (byte_eq_fields b))
  | meByte b => cases h; exact (encode_ofMe _ _).trans (congrArg _ (byte_eq_fields b))

end Sys2Proof.Machine
end

section
/-! The transaction port (30_encoding.md, 47_host_interface.md): malformed transactions, and what each host transaction answers and
changes. -/

namespace Sys2Proof.Machine

/-! ### Malformed transactions (R64) -/

theorem kind_cases (k : BitVec 2) : k = 0 ∨ k = 1 ∨ k = 2 ∨ k = 3 := by revert k; decide

/-- A test whose other branch refuses is a condition of what is accepted. -/
theorem exists_ok_ite {c : Prop} [Decidable c] (err : DecodeError) (x : Except DecodeError Instr) :
    (∃ i, (if c then x else .error err) = .ok i) ↔ c ∧ ∃ i, x = .ok i := by
  split <;> simp_all

/-- The transactions R63 gives: REG and DATA are 0 and the payload is empty where the kind does not use them. -/
theorem decodeTxn_ok_iff (w : Txn) (payload : List Byte) :
    (∃ i, decodeTxn w payload = .ok i) ↔
      (txnKind w = 2 ∨ txnKind w = 3 → txnReg w = 0) ∧ (txnKind w = 0 ∨ txnKind w = 3 → txnData w = 0)
        ∧ payload.length = if txnKind w = 2 then (txnData w).toNat else 0 := by
  unfold decodeTxn
  obtain hk | hk | hk | hk := kind_cases (txnKind w) <;> simp [hk, exists_ok_ite]

/-- A malformed entry at the head of the agenda is refused by its reason (R64; A14). -/
theorem step_of_decode_error {s : State} {e : Encoded} {rest : List Event} {err : DecodeError} (hp : paramsOk s.params = true)
    (ha : s.agenda = .run e :: rest) (hd : decode e = .error err) : step s = .refused (.malformed err) := by
  rw [step, if_pos hp, fetch, ha]
  simp only [hd]

/-- Settles O3: the decoder's tests are R63's, and what it refuses step refuses. -/
theorem malformedRefused : Obligations.MalformedRefused := by
  unfold Obligations.MalformedRefused
  intro w payload kind reg data wellFormed
  have hiff : (∃ i, decode (.txn w payload) = .ok i) ↔ wellFormed := decodeTxn_ok_iff w payload
  refine ⟨hiff, fun s rest hp ha hw => ?_⟩
  cases hd : decode (.txn w payload) with
  | ok i => exact absurd (hiff.1 ⟨i, hd⟩) hw
  | error err => exact ⟨err, step_of_decode_error hp ha hd⟩

/-- Settles O4, word by word. -/
theorem wordsDecode : Obligations.WordsDecode := by
  unfold Obligations.WordsDecode
  decide

/-! ### Registers (R187–R189, R196) -/

theorem counterAt_of_le {r : BitVec 6} (h : 15 ≤ r.toNat) : counterAt r = none := by
  revert r; decide

/-- An index past the counters is unmapped and reads 0 (R187). -/
theorem regRead_of_le (s : State) {r : BitVec 6} (h : 15 ≤ r.toNat) : s.regRead r = 0 := by
  have hne : ∀ k : BitVec 6, k.toNat < 15 → r ≠ k := by
    rintro k hk rfl
    omega
  rw [State.regRead, if_neg (hne 0 (by decide)), if_neg (hne 1 (by decide)), if_neg (hne 2 (by decide)), if_neg (hne 3 (by decide)),
    counterAt_of_le h]

/-- A write to a register other than CMD and CFG is ignored (R188, R196). -/
theorem regWrite_of_ne {r : BitVec 6} (h0 : r ≠ 0) (h2 : r ≠ 2) (v : W32) (s : State) : regWrite r v s = s := by
  rw [regWrite, if_neg h0, if_neg h2]

/-- Settles O9: the value answered is regRead's, at each index that of R187. -/
theorem registerPort : Obligations.RegisterPort := by
  unfold Obligations.RegisterPort
  refine fun s => ⟨fun r => ⟨s.regRead r, rfl, ?_⟩, rfl, fun r v h0 h2 => ?_⟩
  · refine ⟨?_, ?_, ?_, ?_, ?_, ?_, ?_, ?_, ?_, ?_, ?_, ?_, ?_, ?_, ?_, regRead_of_le s⟩ <;> exact fun h => h ▸ rfl
  · exact congrArg (fun t => Host.Outcome.next (State.respond t .nothing)) (regWrite_of_ne h0 h2 v s)

/-- The value of CFG's expansion: its six fields, each at its place (R67). -/
theorem cfgData_toNat (q ae : Byte) (f1 f2 c m : BitVec 1) :
    (cfgData q ae f1 f2 c m).toNat
      = m.toNat * 2 ^ 19 + c.toNat * 2 ^ 18 + f2.toNat * 2 ^ 17 + f1.toNat * 2 ^ 16 + ae.toNat * 2 ^ 8 + q.toNat := by
  simp only [cfgData, toNat_append_eq_add, BitVec.toNat_ofNat]
  omega

/-- CFG's expansion has no bit from bit 20 on, so a CFG write stores all of it (R189). -/
theorem cfgOfWrite_cfgData (q ae : Byte) (f1 f2 c m : BitVec 1) :
    cfgOfWrite (cfgData q ae f1 f2 c m) = cfgData q ae f1 f2 c m := by
  apply BitVec.eq_of_toNat_eq
  rw [cfgOfWrite, BitVec.toNat_setWidth, extractLsb'_toNat_eq_div_mod, cfgData_toNat]
  omega

/-- A bit of a word that holds a one-bit field is that field. -/
theorem getLsbD_eq_true_iff {c : W32} {k : Nat} {b : BitVec 1} (h : c.toNat / 2 ^ k % 2 = b.toNat) :
    c.getLsbD k = true ↔ b = 1 := by
  rw [BitVec.getLsbD, Nat.testBit_eq_decide_div_mod_eq, decide_eq_true_iff, h, ← BitVec.toNat_inj]
  rfl

/-- Settles O11: the write is CfgWrite's, and the fields of CFG's expansion are its operands. -/
theorem configurationWrite : Obligations.ConfigurationWrite := by
  unfold Obligations.ConfigurationWrite
  refine fun s => ⟨fun v => ?_, fun q ae f1 f2 c m => ⟨cfgData q ae f1 f2 c m, rfl, cfgData_toNat q ae f1 f2 c m, ?_⟩⟩
  · refine congrArg Host.Outcome.next ?_
    obtain ⟨hr, he⟩ | ⟨hr, he⟩ := cfgWrite_cases v s <;> rw [he]
    · rw [if_pos hr]; rfl
    · rw [if_neg hr]; rfl
  · have h := cfgData_toNat q ae f1 f2 c m
    rw [cfgOfWrite_cfgData]
    refine ⟨?_, ?_, getLsbD_eq_true_iff ?_, getLsbD_eq_true_iff ?_, getLsbD_eq_true_iff ?_, ?_⟩
    · apply BitVec.eq_of_toNat_eq
      rw [cfgQuality, extractLsb'_toNat_eq_div_mod]
      omega
    · rw [cfgAllowedErrors, extractLsb'_toNat_eq_div_mod]
      omega
    · omega
    · omega
    · omega
    · apply BitVec.eq_of_toNat_eq
      rw [cfgMetric, extractLsb'_toNat_eq_div_mod]
      omega

/-! ### Commands (R190–R192) -/

/-- Settles O12: each command's row runs Command's branch. -/
theorem commands : Obligations.Commands := by
  unfold Obligations.Commands
  refine fun s => ⟨?_, rfl, ?_, rfl, fun v h1 h2 h3 => ?_, fun v => rfl⟩
  · change Host.Outcome.next ((cmdStart s).respond .nothing) = _
    unfold cmdStart
    split <;> rfl
  · obtain ⟨_, r, _⟩ := s
    cases r <;> rfl
  · obtain ⟨h, -⟩ | ⟨h, -⟩ | ⟨h, -⟩ | ⟨-, -, -, he⟩ := command_cases v s
    · exact absurd h h1
    · exact absurd h h2
    · exact absurd h h3
    · exact congrArg (fun t => Host.Outcome.next (State.respond t .nothing)) he

/-! ### Blocks and records (R194, R195) -/

/-- Settles O16, by the two cases of SubmitBlock. -/
theorem submitBlock_accepts_or_drops : Obligations.SubmitBlock := by
  unfold Obligations.SubmitBlock
  refine fun s payload => ⟨fun h => ?_, fun h => ?_⟩
  all_goals
    obtain ⟨hr, hq, he⟩ | ⟨hn, he⟩ := submitBlock_cases payload s
  · exact congrArg Host.Outcome.next he
  · exact absurd h hn
  · exact absurd ⟨hr, hq⟩ h
  · exact congrArg Host.Outcome.next he

/-- Settles O17, by the two cases of PopMsg. -/
theorem popMessage : Obligations.PopMessage := by
  unfold Obligations.PopMessage
  refine fun s => ⟨fun h => ?_, fun m q h => ?_⟩
  all_goals
    obtain ⟨ho, he⟩ | ⟨m', q', ho, he⟩ := popMsg_cases s
  · exact congrArg Host.Outcome.next he
  · cases h.symm.trans ho
  · cases h.symm.trans ho
  · cases h.symm.trans ho
    exact congrArg Host.Outcome.next he

end Sys2Proof.Machine
end

section
/-! The demodulator's words (R69, R88, R94): a pass writes bits and marks only, and a clean signal demodulates to its bits. -/

namespace Sys2Proof.Machine

/-! ### What a pass writes (R69, R107) -/

/-- What DEMOD writes: a bit or a mark (R69). -/
def IsDemodWord (p : Params) (x : W16) : Prop := x = 0 ∨ x = 1 ∨ x = p.markBad ∨ x = p.markGo ∨ x = p.markOver

/-- Each word is as it was, or one that DEMOD writes. -/
def DemodWrites (p : Params) (w w' : List W16) : Prop := ∀ k, w'.getD k 0 = w.getD k 0 ∨ IsDemodWord p (w'.getD k 0)

theorem demodWrites_refl (p : Params) (w : List W16) : DemodWrites p w w := fun _ => .inl rfl

section
variable {p : Params} {w w' : List W16}

theorem demodWrites_set (h : DemodWrites p w w') (i : Nat) {x : W16} (hx : IsDemodWord p x) : DemodWrites p w (w'.set i x) := by
  intro k
  simp only [List.getD_eq_getElem?_getD, List.getElem?_set]
  split
  · split
    · exact .inr hx
    · exact .inr (.inl rfl)
  · simpa only [List.getD_eq_getElem?_getD] using h k

theorem demodWrites_markWindow (h : DemodWrites p w w') (i : Nat) : DemodWrites p w (markWindow p w' i) := by
  unfold markWindow
  generalize List.range 16 = ks
  induction ks generalizing w' with
  | nil => exact h
  | cons k ks ih => exact ih (demodWrites_set h (i + k) (by simp [IsDemodWord]))

/-- The words of a move that ends the pass, or goes on, are the words before with bits and marks written. -/
def DemodMove.Writes (p : Params) (w : List W16) : DemodMove → Prop
  | .more _ w' => DemodWrites p w w'
  | .done w' => DemodWrites p w w'

variable (h : DemodWrites p w w')
include h

theorem demodSearch_writes (r : DemodRegs) : (demodSearch p r w').Writes p w := by
  unfold demodSearch
  split
  · split
    · split
      · exact demodWrites_markWindow h r.i
      · exact h
    · split <;> exact h
  · exact h

theorem demodAccept_writes (r : DemodRegs) (x : Bool) : (demodAccept p r w' x).Writes p w := by
  have hover : IsDemodWord p p.markOver := by simp [IsDemodWord]
  have hbit : IsDemodWord p (if x then 1 else 0) := by cases x <;> simp [IsDemodWord]
  exact demodWrites_set (demodWrites_set (demodWrites_set h _ hover) _ hover) _ hbit

theorem demodPair_writes (quality : Byte) (allowed : Nat) (r : DemodRegs) : (demodPair p quality allowed r w').Writes p w := by
  unfold demodPair
  dsimp only
  split
  · split
    · exact demodAccept_writes h _ _
    · split
      · exact demodWrites_set h _ (by simp [IsDemodWord])
      · exact demodAccept_writes h _ _
  · exact h

theorem demodMove_writes (quality : Byte) (allowed : Nat) (r : DemodRegs) : (demodMove p quality allowed r w').Writes p w := by
  unfold demodMove
  split
  · exact demodSearch_writes h r
  · exact demodPair_writes h quality allowed r

theorem demodRun_writes {quality : Byte} {allowed fuel : Nat} {r : DemodRegs} {u : List W16}
    (hu : demodRun p quality allowed fuel r w' = some u) : DemodWrites p w u := by
  induction fuel generalizing r w' with
  | zero => cases hu
  | succ fuel ih =>
    have hm := demodMove_writes h quality allowed r
    unfold demodRun at hu
    split at hu
    next hd =>
      cases hu
      rwa [hd] at hm
    next hd =>
      rw [hd] at hm
      exact ih hm hu

end

/-- Settles O27: every move writes bits and marks only. -/
theorem passMarks : Obligations.PassMarks := by
  unfold Obligations.PassMarks
  exact fun p quality allowed w w' h => ⟨demodRun_length h, fun k _ => demodRun_writes (demodWrites_refl p w) h k⟩

/-! ### A clean signal (R88, R111, R112) -/

/-- A pair of the signal, first sample high or low (R88). -/
def IsSignalPair (hi lo a b : W16) : Prop := a = hi ∧ b = lo ∨ a = lo ∧ b = hi

/-- After any pair of a clean signal, each policy reads a pair as its bit: TRUST by the pair alone, the others since no high sample is below a
low one (R99–R103). -/
theorem singleManchester_of_signal {hi lo a b : W16} (hlt : lo < hi) (hab : IsSignalPair hi lo a b) (quality : Byte) (x : Bool) :
    singleManchester quality a b (if x then hi else lo) (if x then lo else hi) = .bit x := by
  have hn : ¬ hi < lo := BitVec.not_lt.2 (BitVec.le_of_lt hlt)
  have hbit : bitFlag (if x then hi else lo) (if x then lo else hi) = x := by cases x <;> simp [bitFlag, hlt, hn]
  unfold singleManchester
  cases policyOf quality with
  | trust => exact congrArg Decision.bit hbit
  | sign =>
    obtain ⟨rfl, rfl⟩ | ⟨rfl, rfl⟩ := hab <;> cases x <;> simp [decideSign, bitFlag, prevBitFlag, hlt, hn]
  | confirm =>
    obtain ⟨rfl, rfl⟩ | ⟨rfl, rfl⟩ := hab <;> cases x <;> simp [decideConfirm, bitFlag, prevBitFlag, hlt, hn]
  | strict =>
    obtain ⟨rfl, rfl⟩ | ⟨rfl, rfl⟩ := hab <;> cases x <;> simp [decideStrict, bitFlag, prevBitFlag, hlt, hn]

theorem manchester_length (hi lo : W16) (bits : List Bool) : (manchester hi lo bits).length = 2 * bits.length := by
  induction bits with
  | nil => rfl
  | cons b bs ih => cases b <;> simp [manchester, ih] <;> omega

theorem manchester_cons (hi lo : W16) (b : Bool) (bs : List Bool) :
    manchester hi lo (b :: bs) = (if b then hi else lo) :: (if b then lo else hi) :: manchester hi lo bs := by
  cases b <;> rfl

/-- The words of a run over a clean signal: bits and words before them, j OVERWRITE words, and the signal not yet read (R107). -/
def runWords (p : Params) (pre : List W16) (j : Nat) (rest : List W16) : List W16 := pre ++ List.replicate j p.markOver ++ rest

/-- A bit accepted: its word at the output position, OVERWRITE on its two samples (R107). -/
theorem runWords_accept (p : Params) (pre : List W16) (j : Nat) (c d x : W16) (rest : List W16) :
    (((runWords p pre j (c :: d :: rest)).set (pre.length + j) p.markOver).set (pre.length + j + 1) p.markOver).set pre.length x
      = runWords p (pre ++ [x]) (j + 1) rest := by
  have hrep : List.replicate j p.markOver ++ p.markOver :: p.markOver :: rest
      = p.markOver :: (List.replicate (j + 1) p.markOver ++ rest) := by
    rw [← List.cons_append, ← List.replicate_succ, List.replicate_succ' , List.replicate_succ']
    simp
  have h1 : (runWords p pre j (c :: d :: rest)).set (pre.length + j) p.markOver = runWords p pre j (p.markOver :: d :: rest) := by
    simp [runWords]
  have h2 : (runWords p pre j (p.markOver :: d :: rest)).set (pre.length + j + 1) p.markOver
      = runWords p pre j (p.markOver :: p.markOver :: rest) := by
    simp [runWords, Nat.add_assoc]
  rw [h1, h2, runWords, List.append_assoc, hrep]
  simp [runWords]

theorem runWords_getD (p : Params) (pre : List W16) (j : Nat) (c d : W16) (rest : List W16) :
    (runWords p pre j (c :: d :: rest)).getD (pre.length + j) 0 = c
      ∧ (runWords p pre j (c :: d :: rest)).getD (pre.length + j + 1) 0 = d := by
  simp [runWords, Nat.add_assoc]

@[simp] theorem runWords_length (p : Params) (pre : List W16) (j : Nat) (rest : List W16) :
    (runWords p pre j rest).length = pre.length + j + rest.length := by
  simp [runWords, Nat.add_assoc]

/-- The registers of a run that has written the words pre and read their j samples past the output position (R98). -/
structure InRun (hi lo : W16) (pre : List W16) (j : Nat) (r : DemodRegs) : Prop where
  mode : r.mode = .decode
  prev : IsSignalPair hi lo r.a r.b
  out : r.i2 = pre.length
  pos : r.i = pre.length + j

section
variable {p : Params} {hi lo : W16} (hlt : lo < hi) (quality : Byte) (allowed : Nat)
include hlt

/-- One bit of the signal in a run (R98, R107). -/
theorem demodMove_of_signal {r : DemodRegs} {pre : List W16} {j : Nat} (h : InRun hi lo pre j r) (b : Bool) (bs : List Bool) :
    ∃ r', demodMove p quality allowed r (runWords p pre j (manchester hi lo (b :: bs))) =
        .more r' (runWords p (pre ++ [bitWord b]) (j + 1) (manchester hi lo bs))
      ∧ InRun hi lo (pre ++ [bitWord b]) (j + 1) r' := by
  obtain ⟨hm, hab, hi2, hri⟩ := h
  obtain ⟨hc, hd⟩ := runWords_getD p pre j (if b then hi else lo) (if b then lo else hi) (manchester hi lo bs)
  refine ⟨{ r with a := if b then hi else lo, b := if b then lo else hi, i := r.i + 2, i2 := r.i2 + 1 }, ?_, hm, ?_, ?_, ?_⟩
  · rw [demodMove, hm]
    dsimp only
    rw [manchester_cons, demodPair, if_pos (by simp [hri])]
    dsimp only
    rw [hri, hc, hd, singleManchester_of_signal hlt hab]
    dsimp only [demodAccept]
    rw [hi2, runWords_accept, hm]
    rfl
  · cases b <;> simp [IsSignalPair]
  · simp [hi2]
  · simp [hri]
    omega

/-- A run over the signal to the block's end, and the search that ends the pass there (R98, R111). -/
theorem demodRun_of_signal {r : DemodRegs} {pre : List W16} {j fuel : Nat} {bits : List Bool} (h : InRun hi lo pre j r)
    (hf : bits.length + 2 ≤ fuel) :
    demodRun p quality allowed fuel r (runWords p pre j (manchester hi lo bits)) =
      some (runWords p (pre ++ bits.map bitWord) (j + bits.length) []) := by
  induction bits generalizing r pre j fuel with
  | nil =>
    obtain ⟨fuel, rfl⟩ := Nat.exists_eq_add_of_le' hf
    obtain ⟨hm, -, -, hri⟩ := h
    simp [demodRun, demodMove, hm, demodPair, demodSearch, hri, manchester]
  | cons b bs ih =>
    obtain ⟨fuel, rfl⟩ : ∃ k, fuel = k + 1 := ⟨fuel - 1, by omega⟩
    obtain ⟨r', hr', h'⟩ := demodMove_of_signal (p := p) hlt quality allowed h b bs
    rw [demodRun, hr']
    dsimp only
    rw [ih h' (by simpa using hf)]
    simp [Nat.add_comm, Nat.add_left_comm]

end

/-- The test's first comparison: a window whose first word is not above its second fails (R95). -/
theorem preamble_eq_false {w : List W16} {i : Nat} (h : ¬ w.getD (i + 1) 0 < w.getD i 0) : preamble w i = false := by
  rw [preamble, show List.range 16 = 0 :: 1 :: (List.range 14).map (· + 2) from rfl]
  simp only [List.getD_eq_getElem?_getD] at h
  simp [preambleFrom, preambleHigh]
  exact fun _ hlt => absurd hlt h

theorem preambleFrom_append (pre w : List W16) (ps : List Nat) (high low : W16) :
    preambleFrom (pre ++ w) pre.length ps high low = preambleFrom w 0 ps high low := by
  induction ps generalizing high low with
  | nil => rfl
  | cons k ps ih => simp [preambleFrom, ih, List.getElem?_append_right]

/-- The canonical preamble passes the test, wherever it stands (R95, R112). -/
theorem preamble_of_signal {hi lo : W16} (hlt : lo < hi) (pre rest : List W16) :
    preamble (pre ++ (preambleSignal hi lo ++ rest)) pre.length = true := by
  have h0 : hi ≠ 0#16 := by bv_omega
  have hn : ¬ hi ≤ lo := BitVec.not_le.2 hlt
  rw [preamble, preambleFrom_append]
  simp [preambleSignal, List.range_succ, preambleFrom, preambleHigh, h0, hn]

theorem markWindow_of_signal (p : Params) (hi lo : W16) (pre rest : List W16) :
    markWindow p (pre ++ (preambleSignal hi lo ++ rest)) pre.length = pre ++ (List.replicate 16 p.markGo ++ rest) := by
  have h : ∀ (ks : List Nat) (w : List W16), ks.foldl (fun w k => w.set (pre.length + k) p.markGo) (pre ++ w)
      = pre ++ ks.foldl (fun w k => w.set k p.markGo) w := by
    intro ks
    induction ks with
    | nil => intro w; rfl
    | cons k ks ih => intro w; simp [ih]
  rw [markWindow, h]
  simp [preambleSignal, List.range_succ, List.replicate_succ]

/-- The block of a clean signal: low words, the preamble, and the bits (R88, R112). -/
def signalWords (hi lo : W16) (k : Nat) (bits : List Bool) : List W16 :=
  List.replicate k lo ++ (preambleSignal hi lo ++ manchester hi lo bits)

theorem signalWords_length (hi lo : W16) (k : Nat) (bits : List Bool) :
    (signalWords hi lo k bits).length = k + 16 + 2 * bits.length := by
  simp [signalWords, preambleSignal, manchester_length]
  omega

/-- A low word is not above the word after it. -/
theorem signalWords_low {hi lo : W16} (hlt : lo < hi) {i k : Nat} (hi' : i < k) (bits : List Bool) :
    ¬ (signalWords hi lo k bits).getD (i + 1) 0 < (signalWords hi lo k bits).getD i 0 := by
  have h0 : (signalWords hi lo k bits).getD i 0 = lo := by simp [signalWords, List.getElem?_append_left, hi']
  rw [h0]
  obtain h1 | h1 := Nat.lt_or_eq_of_le (Nat.succ_le_of_lt hi')
  · simp [signalWords, List.getElem?_append_left, h1]
  · have hpre : (signalWords hi lo k bits).getD (i + 1) 0 = hi := by
      rw [show i + 1 = k from h1]
      simp [signalWords, preambleSignal]
    rw [hpre]
    exact BitVec.not_lt.2 (BitVec.le_of_lt hlt)

/-- The registers of a search at i before any match (R96). -/
def DemodRegs.searchAt (i : Nat) : DemodRegs := { DemodRegs.init with i := i }

/-- A match starts a run behind its window (R97). -/
theorem demodSearch_of_match {p : Params} {r : DemodRegs} {w : List W16} (hl : r.i + 17 ≤ w.length) (hp : preamble w r.i = true) :
    demodSearch p r w =
      .more ({ r with a := (seed p w r.i).1, b := (seed p w r.i).2, i := r.i + 16 }.beginRun) (markWindow p w r.i) := by
  rw [demodSearch, if_pos (by omega), if_pos hl, if_pos hp]

/-- Where the test fails the search goes on one word later (R96). -/
theorem demodSearch_of_no_match {p : Params} {r : DemodRegs} {w : List W16} (hl : r.i + 17 ≤ w.length)
    (hp : preamble w r.i = false) : demodSearch p r w = .more { r with i := r.i + 1 } w := by
  rw [demodSearch, if_pos (by omega), if_pos hl, hp]
  rfl

section
variable {p : Params} {hi lo : W16} (hlt : lo < hi) (quality : Byte) (allowed : Nat) {bits : List Bool} (hne : bits ≠ [])
include hlt hne

/-- The match at the preamble starts a run at the first bit, with the seed a pair of the signal (R96, R97). -/
theorem demodSearch_of_preamble (hseed : p.seedOffset = 0 ∨ p.seedOffset = 16) (k : Nat) :
    ∃ r, demodSearch p (.searchAt k) (signalWords hi lo k bits) =
        .more r (runWords p (List.replicate k lo ++ List.replicate 16 p.markGo) 0 (manchester hi lo bits))
      ∧ InRun hi lo (List.replicate k lo ++ List.replicate 16 p.markGo) 0 r := by
  have hlen : 0 < bits.length := List.length_pos_iff.2 hne
  have hl := signalWords_length hi lo k bits
  have hp : preamble (signalWords hi lo k bits) k = true := by
    simpa [signalWords] using preamble_of_signal hlt (List.replicate k lo) (manchester hi lo bits)
  have hw : markWindow p (signalWords hi lo k bits) k
      = runWords p (List.replicate k lo ++ List.replicate 16 p.markGo) 0 (manchester hi lo bits) := by
    simpa [signalWords, runWords] using markWindow_of_signal p hi lo (List.replicate k lo) (manchester hi lo bits)
  have hs : IsSignalPair hi lo (seed p (signalWords hi lo k bits) k).1 (seed p (signalWords hi lo k bits) k).2 := by
    obtain ⟨b, bs, rfl⟩ := List.exists_cons_of_ne_nil hne
    obtain h0 | h16 := hseed
    · simp [seed, h0, signalWords, preambleSignal, IsSignalPair]
    · cases b <;> simp [seed, h16, signalWords, preambleSignal, IsSignalPair, manchester, Nat.add_assoc]
  have hm := demodSearch_of_match (p := p) (r := .searchAt k) (by simp only [DemodRegs.searchAt]; omega) hp
  rw [show (DemodRegs.searchAt k).i = k from rfl, hw] at hm
  exact ⟨_, hm, rfl, hs, by simp [DemodRegs.beginRun], by simp [DemodRegs.beginRun]⟩

/-- The search passes the low words and finds the preamble (R96). -/
theorem demodRun_of_search (hseed : p.seedOffset = 0 ∨ p.seedOffset = 16) {i d fuel : Nat} (hf : d + bits.length + 3 ≤ fuel) :
    demodRun p quality allowed fuel (.searchAt i) (signalWords hi lo (i + d) bits) =
      some (List.replicate (i + d) lo ++ List.replicate 16 p.markGo ++ bits.map bitWord
        ++ List.replicate bits.length p.markOver) := by
  have hlen : 0 < bits.length := List.length_pos_iff.2 hne
  obtain ⟨fuel, rfl⟩ : ∃ k, fuel = k + 1 := ⟨fuel - 1, by omega⟩
  induction d generalizing i fuel with
  | zero =>
    obtain ⟨r, hr, h⟩ := demodSearch_of_preamble hlt hne hseed i
    have hm : demodMove p quality allowed (.searchAt i) (signalWords hi lo i bits) = .more r _ := hr
    simp only [Nat.add_zero, demodRun, hm]
    rw [demodRun_of_signal hlt quality allowed h (by omega)]
    simp [runWords]
  | succ d ih =>
    obtain ⟨fuel, rfl⟩ : ∃ k, fuel = k + 1 := ⟨fuel - 1, by omega⟩
    have hp := preamble_eq_false (signalWords_low hlt (show i < i + (d + 1) by omega) bits)
    have hm : demodMove p quality allowed (.searchAt i) (signalWords hi lo (i + (d + 1)) bits)
        = .more (.searchAt (i + 1)) (signalWords hi lo (i + (d + 1)) bits) := by
      have hl := signalWords_length hi lo (i + (d + 1)) bits
      exact demodSearch_of_no_match (r := .searchAt i) (by simp only [DemodRegs.searchAt]; omega) hp
    rw [demodRun, hm]
    dsimp only
    rw [show i + (d + 1) = i + 1 + d by omega]
    exact ih _ (by omega)

end

/-- Settles O29: the search stops at the preamble, and the run from there reads every bit. -/
theorem signalDemodulates : Obligations.SignalDemodulates := by
  unfold Obligations.SignalDemodulates
  intro p quality allowed k hi lo bits hseed _ hlt hne
  have h := demodRun_of_search (p := p) hlt quality allowed hne hseed (i := 0) (d := k)
    (fuel := demodFuel (signalWords hi lo k bits).length) (by rw [signalWords_length, demodFuel]; omega)
  rw [Nat.zero_add] at h
  rw [List.append_assoc]
  exact h

end Sys2Proof.Machine
end

section
/-! The framer's frames (R70, R73, R113–R122), and the way of a frame from a clean signal into PENDING (R184). -/

namespace Sys2Proof.Machine

/-! ### Every frame handed on (R116, R121) -/

/-- DF of a frame is in the set of the quality-0 filter (R83). -/
theorem selfIdentifying_iff (f : RawFrame) : selfIdentifying (msgDf f.bytes) = true ↔ f.df ∈ [11, 17, 18, 19] := by
  rw [← msgDf_eq_df]
  generalize msgDf f.bytes = df
  revert df; decide

/-- MakeFrame rejects by the quality-0 filter only (R120, R121). -/
theorem makeFrame_eq (quality : Byte) (f : RawFrame) :
    makeFrame quality f = if quality = 0 ∧ f.df ∉ [11, 17, 18, 19] then none else some f := by
  have hb : ¬ f.len.bits < 56 := by cases f.len <;> decide
  rw [makeFrame, if_neg hb]
  simp only [← selfIdentifying_iff, Bool.not_eq_true]

/-- From bit 8 on the candidate's byte 0 is not 0, or the candidate is abandoned (R116). -/
theorem candidateFrom_byte0 (w : List W16) (fuel : Nat) {r : FrameRegs} (h : 8 ≤ r.cnt → r.acc.getD 0 0 ≠ 0) :
    (candidateFrom w fuel r).abandoned = false → 8 ≤ (candidateFrom w fuel r).cnt → (candidateFrom w fuel r).acc.getD 0 0 ≠ 0 := by
  induction fuel generalizing r with
  | zero => exact fun _ => h
  | succ fuel ih =>
    unfold candidateFrom
    dsimp only
    split
    · split
      · nofun
      next hz =>
        refine ih fun (h8 : 8 ≤ r.cnt + 1) => ?_
        by_cases h7 : r.cnt = 7
        · exact fun h0 => hz ⟨h7, h0⟩
        · rw [accumulate_byte0 _ (by omega)]
          exact h (by omega)
    · exact fun _ => h

theorem toFrame_byte0 (r : FrameRegs) : r.toFrame.bytes.getD 0 0 = r.acc.getD 0 0 := by
  have hl : 0 < r.flen.bytes := by cases r.flen <;> decide
  simp [FrameRegs.toFrame, List.getElem?_take_of_lt hl]

/-- An accepted candidate's frame has a byte 0 other than 0 (R116, R118). -/
theorem candidate_byte0 {w : List W16} {p : Nat} (h : (candidate w p).accepted = true) :
    (candidate w p).toFrame.bytes.getD 0 0 ≠ 0 := by
  simp only [FrameRegs.accepted, Bool.and_eq_true, Bool.not_eq_true', decide_eq_true_eq] at h
  obtain ⟨hab, hcnt⟩ := h
  have hbits : 56 ≤ (candidate w p).flen.bits := by cases (candidate w p).flen <;> decide
  have h8 : 8 ≤ (candidate w p).cnt := by omega
  rw [toFrame_byte0]
  exact candidateFrom_byte0 w 113 (fun h0 => absurd h0 (by decide : ¬ 8 ≤ 0)) hab h8

/-- Every frame of a pass is the frame of an accepted candidate that makeFrame handed on (R113, R118). -/
theorem framePassFrom_mem {skip : Nat} {quality : Byte} {w : List W16} {fuel p : Nat} {f : RawFrame}
    (h : f ∈ (framePassFrom skip quality w fuel p).1) :
    ∃ q, (candidate w q).accepted = true ∧ makeFrame quality (candidate w q).toFrame = some f := by
  induction fuel generalizing p with
  | zero => cases h
  | succ fuel ih =>
    unfold framePassFrom at h
    split at h
    · split at h
      · dsimp only at h
        split at h
        next ha =>
          split at h
          next g hg =>
            obtain rfl | h := List.mem_cons.1 h
            · exact ⟨p, ha, hg⟩
            · exact ih h
          next => exact ih h
        next => exact ih h
      · exact ih h
    · cases h

/-- At another QUALITY than 0 nothing is rejected (R121). -/
theorem framePassFrom_rejects_none {quality : Byte} (hq : quality ≠ 0) (skip : Nat) (w : List W16) (fuel p : Nat) :
    (framePassFrom skip quality w fuel p).2 = 0 := by
  induction fuel generalizing p with
  | zero => rfl
  | succ fuel ih =>
    unfold framePassFrom
    simp only [makeFrame_eq, hq, false_and, if_false]
    split
    · split
      · split <;> exact ih _
      · exact ih _
    · rfl

theorem exec_feFrame {s : State} (h : s.fePhase = .frame) : exec .feFrame s = .next (feFrame s) :=
  whenEnabled_next.2 (if_pos (decide_eq_true h)).symm

theorem feFrame_of_pass {s : State} {fs : List RawFrame} {n : Nat}
    (h : framePass s.params.resumeSkip (cfgQuality s.cfg) s.words = (fs, n)) :
    feFrame s = { s with counters := s.counters.add .frmRej n, pending := fs, fePhase := .emit } := by
  rw [feFrame, h]
  rfl

/-- Settles O32: every frame is that of an accepted candidate, which makeFrame handed on. -/
theorem frameStep : Obligations.FrameStep := by
  unfold Obligations.FrameStep
  refine fun s hp => ⟨exec_feFrame hp, fun f hf => ?_, fun hq => framePassFrom_rejects_none hq _ _ _ _⟩
  obtain ⟨q, ha, hm⟩ := framePassFrom_mem hf
  obtain rfl := makeFrame_eq_some hm
  refine ⟨toFrame_ok (candidate_ok _ q) ha, candidate_byte0 ha, fun hq => ?_⟩
  rw [makeFrame_eq] at hm
  by_contra hdf
  rw [if_pos ⟨hq, hdf⟩] at hm
  cases hm

/-! ### The bits of a candidate (R115) -/

/-- Bit j0 after byte k is replaced. -/
theorem msgBit_set (m : List Byte) {k : Nat} (hk : k < m.length) (v : Byte) (j0 : Nat) :
    msgBit (m.set k v) j0 = if j0 / 8 = k then v.getLsbD (7 - j0 % 8) else msgBit m j0 := by
  unfold msgBit
  simp only [List.getD_eq_getElem?_getD, List.getElem?_set]
  split
  next h => rw [if_pos h.symm]; simp
  next h => rw [if_neg (Ne.symm h)]

/-- A bit accumulated is ORed into its place, and no other bit changes (R115). -/
theorem msgBit_accumulate {acc : List Byte} {cnt : Nat} (hc : cnt < 8 * acc.length) (b : Bool) (j0 : Nat) :
    msgBit (accumulate acc cnt (bitWord b)) j0 = (msgBit acc j0 || (decide (j0 = cnt) && b)) := by
  cases b with
  | false => simp [accumulate, bitWord]
  | true =>
    rw [show accumulate acc cnt (bitWord true) = acc.set (cnt / 8) (acc.getD (cnt / 8) 0 ||| (1#8 <<< (7 - cnt % 8))) from rfl,
      msgBit_set acc (by omega)]
    split
    next h =>
      have hone : (1#8 <<< (7 - cnt % 8)).getLsbD (7 - j0 % 8) = decide (j0 = cnt) := by
        have hj : 7 - j0 % 8 < 8 := by omega
        rw [Bool.eq_iff_iff]
        simp [hj]
        omega
      rw [BitVec.getLsbD_or, hone, Bool.and_true, msgBit, h]
    next h =>
      have hne : j0 ≠ cnt := by rintro rfl; exact h rfl
      simp [hne]

/-- Messages of one length with the same bits are the same (R7). -/
theorem msg_ext {m m' : List Byte} (hl : m.length = m'.length) (h : ∀ j0, j0 < 8 * m.length → msgBit m j0 = msgBit m' j0) :
    m = m' := by
  refine List.ext_getElem hl fun k hk hk' => BitVec.eq_of_getLsbD_eq fun i hi => ?_
  have hb := h (8 * k + (7 - i)) (by omega)
  rw [msgBit, msgBit, show (8 * k + (7 - i)) / 8 = k by omega, show 7 - (8 * k + (7 - i)) % 8 = i by omega] at hb
  simpa [hk, hk'] using hb

/-- The 14 bytes of a candidate after the first n bits of the message m (R115). -/
def prefixBytes (m : List Byte) : Nat → List Byte
  | 0 => List.replicate 14 0
  | n + 1 => accumulate (prefixBytes m n) n (bitWord (msgBit m n))

@[simp] theorem prefixBytes_length (m : List Byte) (n : Nat) : (prefixBytes m n).length = 14 := by
  induction n with
  | zero => rfl
  | succ n ih => rw [prefixBytes, accumulate_length, ih]

theorem msgBit_prefixBytes (m : List Byte) {n : Nat} (hn : n ≤ 112) (j0 : Nat) :
    msgBit (prefixBytes m n) j0 = (decide (j0 < n) && msgBit m j0) := by
  induction n with
  | zero =>
    rw [prefixBytes, msgBit, List.getD_eq_getElem?_getD, List.getElem?_getD_replicate_default_eq]
    simp
  | succ n ih =>
    rw [prefixBytes, msgBit_accumulate (by simp; omega), ih (by omega)]
    obtain hlt | rfl | hgt := Nat.lt_trichotomy j0 n
    · simp [hlt, Nat.lt_succ_of_lt hlt, Nat.ne_of_lt hlt]
    · simp
    · simp [show ¬ j0 < n by omega, show ¬ j0 < n + 1 by omega, Nat.ne_of_gt hgt]

/-- After eight bits byte 0 is the message's (R116). -/
theorem prefixBytes_byte0 (m : List Byte) {n : Nat} (h8 : 8 ≤ n) (hn : n ≤ 112) : (prefixBytes m n).getD 0 0 = m.getD 0 0 := by
  refine BitVec.eq_of_getLsbD_eq fun i hi => ?_
  have h := msgBit_prefixBytes m hn (7 - i)
  rw [msgBit, msgBit, show (7 - i) / 8 = 0 by omega, show 7 - (7 - i) % 8 = i by omega] at h
  rw [h, decide_eq_true (by omega), Bool.true_and]

/-- The bytes of a message of n bits, whose last bit may be missing where it is 0 (R118, R122). -/
theorem prefixBytes_take {m : List Byte} {l n : Nat} (hl : m.length = l) (hl14 : l ≤ 14) (hn : n ≤ 8 * l)
    (hz : ∀ j0, n ≤ j0 → j0 < 8 * l → msgBit m j0 = false) : (prefixBytes m n).take l = m := by
  have hlen : ((prefixBytes m n).take l).length = l := by simp [hl14]
  refine msg_ext (hlen.trans hl.symm) fun j0 hj => ?_
  rw [hlen] at hj
  have htake : msgBit ((prefixBytes m n).take l) j0 = msgBit (prefixBytes m n) j0 := by
    simp [msgBit, List.getElem?_take_of_lt (show j0 / 8 < l by omega)]
  rw [htake, msgBit_prefixBytes m (by omega)]
  by_cases hjn : j0 < n
  · simp [hjn]
  · simp [hjn, hz j0 (by omega) hj]

/-! ### A candidate over a frame's bits -/

/-- The registers of the candidate at p after the first n bits of f (R113, R115–R117). -/
def prefixRegs (f : RawFrame) (p n : Nat) : FrameRegs :=
  { q := p + n, cnt := n, flen := if n < 8 then .long else f.len, acc := prefixBytes f.bytes n, abandoned := false }

/-- From position p on w holds the first n bits of f. -/
def HoldsBits (w : List W16) (f : RawFrame) (p n : Nat) : Prop :=
  p + n ≤ w.length ∧ ∀ k, k < n → w.getD (p + k) 0 = bitWord (msgBit f.bytes k)

theorem isBitWord_iff {x : W16} : isBitWord x = true ↔ ¬ 1 < x := decide_eq_true_iff.trans BitVec.not_lt.symm

theorem isBitWord_bitWord (b : Bool) : isBitWord (bitWord b) = true := by cases b <;> rfl

section
variable {f : RawFrame} (hf : f.Ok) (h0 : f.bytes.getD 0 0 ≠ 0) {w : List W16} {p n : Nat} (hw : HoldsBits w f p n)
  (hn : n ≤ f.len.bits)
include hf h0 hw hn

/-- The candidate reads one more bit of the frame (R113). -/
theorem candidateFrom_step (fuel : Nat) {k : Nat} (hk : k < n) :
    candidateFrom w (fuel + 1) (prefixRegs f p k) = candidateFrom w fuel (prefixRegs f p (k + 1)) := by
  obtain ⟨hlen, hbits⟩ := hw
  have h112 := frameLen_bits_le f.len
  have hcnt : k < (prefixRegs f p k).flen.bits := by
    unfold prefixRegs
    dsimp only
    split
    · exact Nat.lt_of_lt_of_le hk (hn.trans h112)
    · omega
  have hb0 : 7 ≤ k → (prefixBytes f.bytes (k + 1)).getD 0 0 = f.bytes.getD 0 0 := fun h7 =>
    prefixBytes_byte0 f.bytes (by omega) (by omega)
  rw [candidateFrom, if_pos ⟨by simp only [prefixRegs]; omega, by simp only [prefixRegs, hbits k hk, isBitWord_bitWord], hcnt⟩]
  have hacc : accumulate (prefixRegs f p k).acc (prefixRegs f p k).cnt (w.getD (prefixRegs f p k).q 0)
      = prefixBytes f.bytes (k + 1) := congrArg (accumulate _ _) (hbits k hk)
  rw [hacc, if_neg fun hz => h0 ((hb0 (Nat.le_of_eq hz.1.symm)).symm.trans hz.2)]
  have hflen : (if k = 7 then FrameLen.ofByte0 ((prefixBytes f.bytes (k + 1)).getD 0 0) else (prefixRegs f p k).flen)
      = (prefixRegs f p (k + 1)).flen := by
    obtain hlt | rfl | hgt := Nat.lt_trichotomy k 7
    · simp [prefixRegs, show k ≠ 7 by omega, show k < 8 by omega, hlt]
    · rw [if_pos rfl, hb0 (Nat.le_refl 7), ← hf.2]
      rfl
    · simp [prefixRegs, show k ≠ 7 by omega, show ¬ k < 8 by omega, show ¬ k + 1 < 8 by omega]
  exact congrArg (fun l => candidateFrom w fuel { prefixRegs f p (k + 1) with flen := l }) hflen

/-- The candidate at p has read the n bits (R113). -/
theorem candidateFrom_prefix (fuel : Nat) {k : Nat} (hk : k ≤ n) :
    candidateFrom w (fuel + k) (FrameRegs.init p) = candidateFrom w fuel (prefixRegs f p k) := by
  induction k generalizing fuel with
  | zero => rfl
  | succ k ih =>
    rw [Nat.add_comm k 1, ← Nat.add_assoc, ih (fuel + 1) (Nat.le_of_succ_le hk), candidateFrom_step hf h0 hw hn fuel hk,
      Nat.add_comm 1 k]

/-- A candidate over n bits of the frame, with no bit behind them, ends with them (R113, R117). -/
theorem candidate_of_bits (hafter : ∀ k, p + n ≤ k → k < w.length → 1 < w.getD k 0) :
    candidate w p = prefixRegs f p n := by
  have h112 := frameLen_bits_le f.len
  have hfuel : (113 : Nat) = 112 - n + 1 + n := by omega
  rw [candidate, hfuel, candidateFrom_prefix hf h0 hw hn (112 - n + 1) (Nat.le_refl n), candidateFrom, if_neg]
  rintro ⟨hq, hbit, -⟩
  exact isBitWord_iff.1 hbit (hafter _ (Nat.le_refl _) hq)

end

/-! ### A pass over one frame -/

/-- Words that are no bits are passed over (R113, R114). -/
theorem framePassFrom_skip (skip : Nat) (quality : Byte) {w : List W16} (fuel p : Nat) {d : Nat} (hd : p + d ≤ w.length)
    (h : ∀ k, p ≤ k → k < p + d → 1 < w.getD k 0) :
    framePassFrom skip quality w (fuel + d) p = framePassFrom skip quality w fuel (p + d) := by
  induction d generalizing p with
  | zero => rfl
  | succ d ih =>
    have hp : ¬ isBitWord (w.getD p 0) = true := fun hb => isBitWord_iff.1 hb (h p (Nat.le_refl p) (by omega))
    rw [← Nat.add_assoc, framePassFrom, if_pos (by omega), if_neg hp,
      ih (p + 1) (by omega) fun k h1 h2 => h k (by omega) (by omega), show p + 1 + d = p + (d + 1) by omega]

/-- A pass over words that are no bits ends with nothing. -/
theorem framePassFrom_of_no_bits (skip : Nat) (quality : Byte) {w : List W16} (fuel p : Nat)
    (h : ∀ k, p ≤ k → k < w.length → 1 < w.getD k 0) : framePassFrom skip quality w fuel p = ([], 0) := by
  induction fuel generalizing p with
  | zero => rfl
  | succ fuel ih =>
    rw [framePassFrom]
    split
    next hp =>
      rw [if_neg fun hb : isBitWord (w.getD p 0) = true => isBitWord_iff.1 hb (h p (Nat.le_refl p) hp)]
      exact ih (p + 1) fun k hk => h k (by omega)
    next => rfl

/-- A block of one frame's bits, the last missing or not, gives that frame or one rejection (R113–R118, R121, R122). -/
theorem framePass_of_frame (skip : Nat) (quality : Byte) {f : RawFrame} (hf : f.Ok) (h0 : f.bytes.getD 0 0 ≠ 0) {w : List W16}
    {p n : Nat} (hbefore : ∀ k, k < p → 1 < w.getD k 0) (hw : HoldsBits w f p n)
    (hafter : ∀ k, p + n ≤ k → k < w.length → 1 < w.getD k 0) (hn : n ≤ f.len.bits) (hmiss : f.len.bits ≤ n + 1)
    (hz : n < f.len.bits → msgBit f.bytes n = false) :
    framePass skip quality w = if quality = 0 ∧ f.df ∉ [11, 17, 18, 19] then ([], 1) else ([f], 0) := by
  have h56 : 56 ≤ f.len.bits ∧ f.len.bits = 8 * f.len.bytes ∧ f.len.bytes ≤ 14 := by cases f.len <;> decide
  obtain ⟨h56, hb8, h14⟩ := h56
  have hlen := hw.1
  have hr : candidate w p = prefixRegs f p n := candidate_of_bits hf h0 hw hn hafter
  have hflen : (prefixRegs f p n).flen = f.len := if_neg (by omega)
  have hacc : (prefixRegs f p n).accepted = true := by
    rw [FrameRegs.accepted, hflen]
    exact decide_eq_true hmiss
  have hframe : (prefixRegs f p n).toFrame = f := by
    have hbytes : (prefixBytes f.bytes n).take f.len.bytes = f.bytes :=
      prefixBytes_take hf.1 h14 (by omega) fun j0 h1 h2 => (show n = j0 by omega) ▸ hz (by omega)
    rw [FrameRegs.toFrame, hflen]
    exact congrArg (RawFrame.mk · f.len) hbytes
  have hbit : isBitWord (w.getD p 0) = true := by
    have := hw.2 0 (by omega)
    rw [Nat.add_zero] at this
    rw [this, isBitWord_bitWord]
  have hrest : ∀ fuel, framePassFrom skip quality w fuel (p + n + skip) = ([], 0) := fun fuel =>
    framePassFrom_of_no_bits skip quality fuel _ fun k hk => hafter k (by omega)
  have hfuel : w.length + 1 = w.length - p + 1 + p := by omega
  rw [framePass, hfuel, framePassFrom_skip skip quality _ 0 (by omega) fun k _ hk => hbefore k (by omega), Nat.zero_add,
    framePassFrom, if_pos (by omega), if_pos hbit, hr, if_pos hacc, hframe, makeFrame_eq]
  rw [show (prefixRegs f p n).q = p + n from rfl, hrest]
  by_cases hq : quality = 0 ∧ f.df ∉ [11, 17, 18, 19]
  · simp only [if_pos hq]
  · simp only [if_neg hq]

theorem bits_length (f : RawFrame) : f.bits.length = f.len.bits := by simp [RawFrame.bits]

theorem bits_getElem (f : RawFrame) {k : Nat} (hk : k < f.bits.length) : f.bits[k] = msgBit f.bytes k := by simp [RawFrame.bits]

/-- A block of other words, a frame's bits, the last missing or not, and other words gives that frame or one rejection (R113–R118,
R121, R122). -/
theorem framePass_append (skip : Nat) (quality : Byte) {f : RawFrame} (hf : f.Ok) (h0 : f.bytes.getD 0 0 ≠ 0)
    {before after : List W16} {n : Nat} (hbefore : ∀ x ∈ before, 1 < x) (hafter : ∀ x ∈ after, 1 < x) (hn : n ≤ f.len.bits)
    (hmiss : f.len.bits ≤ n + 1) (hz : n < f.len.bits → msgBit f.bytes n = false) :
    framePass skip quality (before ++ (f.bits.take n).map bitWord ++ after)
      = if quality = 0 ∧ f.df ∉ [11, 17, 18, 19] then ([], 1) else ([f], 0) := by
  have hl : ((f.bits.take n).map bitWord).length = n := by simp [RawFrame.bits, hn]
  refine framePass_of_frame skip quality hf h0 (p := before.length) (n := n) (fun k hk => ?_) ⟨?_, fun k hk => ?_⟩
    (fun k hk hkw => ?_) hn hmiss hz
  · rw [List.append_assoc, List.getD_append _ _ _ _ hk]
    exact List.getD_eq_getElem _ _ hk ▸ hbefore _ (List.getElem_mem hk)
  · simp [bits_length, hn]
  · simp [List.getElem?_append_right, List.getElem?_append_left, bits_length, bits_getElem, hn, hk]
  · obtain ⟨i, rfl⟩ := Nat.exists_eq_add_of_le hk
    have hi : i < after.length := by
      simp only [List.length_append, hl] at hkw
      omega
    have hget : (before ++ (f.bits.take n).map bitWord ++ after).getD (before.length + n + i) 0 = after[i] := by
      rw [List.getD_append_right _ _ _ _ (by simp only [List.length_append, hl]; omega), List.length_append, hl,
        Nat.add_sub_cancel_left, List.getD_eq_getElem _ _ hi]
    exact hget ▸ hafter _ (List.getElem_mem hi)

/-! ### From the signal to PENDING (R184) -/

/-- The words FE_DEMOD leaves are the words FE_FRAME reads (R47). -/
theorem words_setWords {s : State} (hm : s.mem.wf) {ws : List W16} (hw : ws.length = s.wordCount) : (s.setWords ws).words = ws := by
  have hl : 2 * (s.setWords ws).wordCount = (bytesOfWords ws).length := by
    rw [bytesOfWords_length, hw]
    rfl
  rw [State.words, hl]
  exact (congrArg wordsOfBytes (memory_load_store hm (bytesOfWords ws))).trans (wordsOfBytes_bytesOfWords ws)

/-- FE_DEMOD of a pass that ends (R94). -/
theorem exec_feDemod_of_pass {s : State} (hp : s.fePhase = .demod) {w : List W16}
    (h : demodPass s.params (cfgQuality s.cfg) (cfgAllowedErrors s.cfg) s.words = some w) :
    exec .feDemod s = .next { s.setWords w with fePhase := .frame } := by
  have he : feDemod s = { s.setWords w with fePhase := .frame } := by
    rw [feDemod, h]
  exact he ▸ whenEnabled_next.2 (if_pos (decide_eq_true hp)).symm

/-- The words a clean signal of the frame f leaves after FE_DEMOD (R107). -/
def demodulated (p : Params) (lo : W16) (k : Nat) (f : RawFrame) : List W16 :=
  List.replicate k lo ++ List.replicate 16 p.markGo ++ f.bits.map bitWord ++ List.replicate f.bits.length p.markOver

/-- FRAME of the words of a clean signal (R113). -/
theorem framePass_demodulated {p : Params} (hgo : 1 < p.markGo) (hover : 1 < p.markOver) (skip : Nat) (quality : Byte) {lo : W16}
    (hlo : 1 < lo) (k : Nat) {f : RawFrame} (hf : f.Ok) (h0 : f.bytes.getD 0 0 ≠ 0) :
    framePass skip quality (demodulated p lo k f) = if quality = 0 ∧ f.df ∉ [11, 17, 18, 19] then ([], 1) else ([f], 0) := by
  have hbits : f.bits = f.bits.take f.len.bits := (List.take_of_length_le (Nat.le_of_eq (bits_length f))).symm
  rw [demodulated, hbits]
  refine framePass_append skip quality hf h0 (fun x hx => ?_) (fun x hx => ?_) (Nat.le_refl _) (Nat.le_succ _)
    fun h => absurd h (Nat.lt_irrefl _)
  · obtain hx | hx := List.mem_append.1 hx <;> obtain rfl := List.eq_of_mem_replicate hx <;> assumption
  · obtain rfl := List.eq_of_mem_replicate hx
    assumption

theorem paramsOk_marks {p : Params} (h : paramsOk p = true) :
    1 < p.markGo ∧ 1 < p.markOver ∧ (p.seedOffset = 0 ∨ p.seedOffset = 16) := by
  simp only [paramsOk, Bool.and_eq_true, decide_eq_true_eq] at h
  tauto

/-- Settles O31: FE_DEMOD leaves the frame's bits, and FE_FRAME reads them back. -/
theorem receivePath : Obligations.ReceivePath := by
  unfold Obligations.ReceivePath
  intro s n k hi lo f hp htail hph hm hb hn hlo hlt hf h0 hws
  obtain ⟨hgo, hover, hseed⟩ := paramsOk_marks hp
  have hne : f.bits ≠ [] := List.ne_nil_of_length_pos (by rw [bits_length]; cases f.len <;> decide)
  have hd : demodPass s.params (cfgQuality s.cfg) (cfgAllowedErrors s.cfg) s.words = some (demodulated s.params lo k f) :=
    hws ▸ signalDemodulates _ _ _ k hi lo _ hseed htail hlt hne
  have hw : (s.setWords (demodulated s.params lo k f)).words = demodulated s.params lo k f :=
    words_setWords hm ((demodRun_length hd).trans (words_length s))
  have hpass := framePass_demodulated hgo hover s.params.resumeSkip (cfgQuality s.cfg) hlo k hf h0
  rw [← hw] at hpass
  have hx {fs : List RawFrame} {n : Nat} (h : framePass s.params.resumeSkip (cfgQuality s.cfg) _ = (fs, n)) :=
    (exec_feFrame (s := { s.setWords (demodulated s.params lo k f) with fePhase := .frame }) rfl).trans
      (congrArg Host.Outcome.next (feFrame_of_pass h))
  by_cases hq : cfgQuality s.cfg = 0 ∧ f.df ∉ [11, 17, 18, 19]
  · refine ⟨_, _, exec_feDemod_of_pass hph hd, hx (hpass.trans (if_pos hq)), rfl, ?_⟩
    rw [if_pos hq]
    exact ⟨rfl, rfl⟩
  · refine ⟨_, _, exec_feDemod_of_pass hph hd, hx (hpass.trans (if_neg hq)), rfl, ?_⟩
    rw [if_neg hq]
    exact ⟨rfl, by simp [Counters.add]⟩

end Sys2Proof.Machine
end

section
/-! The records a decode emits (R76, R84): which record it is, the guards and ranges every record keeps, and the records of DF17 messages
with an identification or no decoded ME field. -/

namespace Sys2Proof.Machine

/-! ### The record an instruction emits -/

theorem decodeRegWrite_host (r : BitVec 6) (v : W32) : agentOf (decodeRegWrite r v) = .host := by
  unfold decodeRegWrite
  split
  · split
    · rfl
    · split
      · rfl
      · split <;> rfl
  · split <;> rfl

/-- Every host transaction has one of HOST's effects, whether its operands are well formed or not (A26). -/
theorem exec_hostEffect_any {i : Instr} {s t : State} (ha : agentOf i = .host) (h : exec i s = .next t) :
    ∃ j, HostEffect s j t := by
  have hreg (r : BitVec 6) (v : W32) (hx : Host.Outcome.next ((regWrite r v s).respond .nothing) = .next t) :
      ∃ j, HostEffect s j t :=
    ⟨_, exec_hostEffect (decodeRegWrite_host r v) (decodeRegWrite_wellFormed r v) ((exec_decodeRegWrite r v s).trans hx)⟩
  by_cases hw : i.wellFormed = true
  · exact ⟨i, exec_hostEffect ha hw h⟩
  · cases i with
    | wr0Undefined v => exact hreg 0 v h
    | wrOther r v => exact hreg r v h
    | submit p => cases h; exact ⟨_, hostEffect_submit s p⟩
    | _ => exact absurd rfl hw

theorem hostEffect_msg {s t : State} {i : Instr} (h : HostEffect s i t) : t.msg = s.msg ∨ t.msg = none := by
  cases h with
  | reset => exact .inr rfl
  | _ => exact .inl rfl

/-- While DE decodes, its steps and rows decode the frame or hold (R10; A9). -/
theorem exec_de_of_decodes {i : Instr} {s : State} {f : RawFrame} (ha : agentOf i = .de) (hd : Decodes s f) :
    exec i s = exec .deDecode s ∨ exec i s = .next s := by
  obtain rfl | rfl | rfl | ⟨b, hb⟩ | ⟨b, hb⟩ := de_instr_cases ha
  · refine .inr (heldStepsChangeNothing s .deTake (by decide) fun h => ?_)
    cases h with
    | deTake _ hp => cases hp.symm.trans hd.1
  · exact .inl rfl
  · refine .inr (heldStepsChangeNothing s .deEmit (by decide) fun h => ?_)
    cases h with
    | deEmit _ hp => cases hp.symm.trans hd.1
  · obtain ⟨-, -, -, hx⟩ | ⟨-, hx⟩ := exec_dfRow hb s
    · exact .inl hx
    · exact .inr hx
  · obtain ⟨-, -, -, hx⟩ | ⟨-, hx⟩ := exec_meRow hb s
    · exact .inl hx
    · exact .inr hx

/-- The record an instruction of DE emits is the one of the verdict on the frame in hand (R138). -/
theorem record_of_de {i : Instr} {s t : State} {f : RawFrame} {r : DecodedMessage} (ha : agentOf i = .de) (hd : Decodes s f)
    (hm : s.msg = none) (hx : exec i s = .next t) (ht : t.msg = some r) : r = decodeFields s.cfg (validate s f s.now) := by
  obtain he | he := exec_de_of_decodes ha hd <;> rw [he] at hx
  · rw [exec_deDecode hd] at hx
    cases hx
    have ho : decodeOut s.cfg (validate s f s.now) = some r := ht
    unfold decodeOut at ho
    split at ho <;> cases ho
    rfl
  · cases hx
    cases hm.symm.trans ht

/-- Only DE emits records, and those of its verdicts (R56, R138). -/
theorem record_of_emits {i : Instr} {s : State} {r : DecodedMessage} (h : EmitsRecord i s r) :
    ∃ f, Decodes s f ∧ r = decodeFields s.cfg (validate s f s.now) := by
  obtain ⟨f, t, hd, hm, hx, ht⟩ := h
  refine ⟨f, hd, ?_⟩
  cases ha : agentOf i with
  | host =>
    obtain ⟨j, hj⟩ := exec_hostEffect_any ha hx
    obtain he | he := hostEffect_msg hj <;> simp [he, hm] at ht
  | fe =>
    obtain ⟨-, -, -, -, -, he, -⟩ := feEffect_frame (exec_feEffect ha hx)
    cases (he.trans hm).symm.trans ht
  | de => exact record_of_de ha hd hm hx ht

/-! ### Fields of a message -/

/-- A field fits its width (R160). -/
theorem msgBits_lt (m : List Byte) {a b n : Nat} (h : b + 1 - a ≤ n) : msgBits m a b < 2 ^ n := by
  have hk : ∀ k, (List.range k).foldl (fun n k => 2 * n + (msgBit m (a + k - 1)).toNat) 0 < 2 ^ k := by
    intro k
    induction k with
    | zero => exact Nat.one_pos
    | succ k ih =>
      have hb := Bool.toNat_le (msgBit m (a + k - 1))
      rw [List.range_succ, List.foldl_append, List.foldl_cons, List.foldl_nil, pow_succ]
      omega
  exact Nat.lt_of_lt_of_le (hk _) (Nat.pow_le_pow_right (by decide) h)

theorem msgField_toNat (m : List Byte) {a b w : Nat} (h : b + 1 - a ≤ w) : (msgField w m a b).toNat = msgBits m a b := by
  rw [msgField, BitVec.toNat_ofNat, Nat.mod_eq_of_lt (msgBits_lt m h)]

theorem padded_getD (m : List Byte) (k : Nat) : (padded m).getD k 0 = m.getD k 0 := by
  rw [padded]
  by_cases hk : k < m.length
  · rw [List.getD_append _ _ _ _ hk]
  · rw [List.getD_append_right _ _ _ _ (Nat.le_of_not_lt hk), List.getD_eq_default m 0 (Nat.le_of_not_lt hk),
      List.getD_eq_getElem?_getD, List.getElem?_getD_replicate_default_eq]

/-- The bytes added to a message are 0, as are the bits read past its end (R84; A24). -/
theorem msgBits_padded (m : List Byte) (a b : Nat) : msgBits (padded m) a b = msgBits m a b := by
  simp only [msgBits, msgBit, padded_getD]

/-! ### Records of DF17 messages -/

/-- What a DF17 record has of its ME header (R168). -/
def DecodedMessage.HasMeHeader (r : DecodedMessage) : Prop :=
  r.df = 17 ∧ r.tcValid = true ∧ r.tc.toNat = (r.msg.getD 4 0).toNat / 8 ∧ r.st.toNat = (r.msg.getD 4 0).toNat % 8

section
variable {v : Verdict} (hdf : msgBits v.m 1 5 = 17) (cfg : W32)
include hdf

/-- The header of a DF17 record before its ME type's rule (R168). -/
theorem meHeader_hasMeHeader : (meHeader v.m (commonFields cfg v)).HasMeHeader := by
  have hb : (padded v.m).getD 4 0 = v.m.getD 4 0 := padded_getD v.m 4
  have htc : msgBits v.m 33 37 = (v.m.getD 4 0).toNat / 8 % 32 := msgBits_in_byte v.m 4 0 5 (by omega)
  have hst : msgBits v.m 38 40 = (v.m.getD 4 0).toNat / 1 % 8 := msgBits_in_byte v.m 4 5 3 (by omega)
  have hlt := (v.m.getD 4 0).isLt
  refine ⟨?_, rfl, ?_, ?_⟩
  · exact BitVec.eq_of_toNat_eq ((msgDf_toNat v.m).trans hdf)
  · change (msgField 5 v.m 33 37).toNat = ((padded v.m).getD 4 0).toNat / 8
    rw [msgField_toNat _ (by decide), hb, htc]
    omega
  · change (msgField 3 v.m 38 40).toNat = ((padded v.m).getD 4 0).toNat % 8
    rw [msgField_toNat _ (by decide), hb, hst]
    omega

/-- The record of a DF17 message: the ME header and the rule of byte 4's type (R161, R168). -/
theorem decodeFields_of_byte4 {b : Byte} (hb : v.m.getD 4 0 = b) :
    decodeFields cfg v = meRule (b.extractLsb' 3 5) (b.extractLsb' 0 3) v.m (meHeader v.m (commonFields cfg v)) :=
  decodeFields_of_me hdf (hb.trans (byte_eq_fields b).symm) cfg

end

theorem byte_fields_toNat (b : Byte) :
    (b.extractLsb' 3 5).toNat = b.toNat / 8 ∧ (b.extractLsb' 0 3).toNat = b.toNat % 8 := by
  revert b; decide

/-- The fields that depend on the message's first byte and length only, which every field rule leaves alone (R159). -/
theorem formatFields_kept (m : List Byte) (r : DecodedMessage) :
    (formatFields m r).df = r.df ∧ (formatFields m r).nBits = r.nBits := by
  have h13 : (altitude13 m r).df = r.df ∧ (altitude13 m r).nBits = r.nBits := by
    unfold altitude13
    dsimp only
    split <;> exact ⟨rfl, rfl⟩
  have h12 (r : DecodedMessage) : (altitude12 m r).df = r.df ∧ (altitude12 m r).nBits = r.nBits := by
    unfold altitude12
    dsimp only
    split <;> exact ⟨rfl, rfl⟩
  have hme : (meFields m (meHeader m r)).df = r.df ∧ (meFields m (meHeader m r)).nBits = r.nBits := by
    unfold meFields
    dsimp only
    split
    · exact ⟨rfl, rfl⟩
    · split
      · exact h12 (meHeader m r)
      · split <;> exact ⟨rfl, rfl⟩
  unfold formatFields
  dsimp only
  split
  · exact h13
  · split
    · exact h13
    · split
      · exact ⟨rfl, rfl⟩
      · split
        · exact hme
        · exact ⟨rfl, rfl⟩

theorem decodeFields_df (cfg : W32) (v : Verdict) : (decodeFields cfg v).df.toNat = msgBits v.m 1 5 :=
  (congrArg BitVec.toNat (formatFields_kept v.m (commonFields cfg v)).1).trans (msgDf_toNat v.m)

theorem decodeFields_msg (cfg : W32) (v : Verdict) : (decodeFields cfg v).msg = padded v.m := by
  obtain ⟨-, -, -, -, -, -, -, -, hm⟩ := decodeFields_checked cfg v
  exact hm

/-! ### Squitters with syndrome 0 -/

section
variable {s : State} {f : RawFrame} {i : Instr} (hd : Decodes s f) (hg : f.GoodSquitter)
include hg

theorem goodSquitter_syndrome : syndrome f.len.bits f.bytes = 0 := by
  rw [hg.1]
  exact hg.2.2.2

theorem validate_of_goodSquitter (t : W32) : validate s f t = piVerdict s f t .directOk [] := by
  have hdf : f.df = 17 := hg.2.2.1
  rw [validate_of_pi (by simp [hdf])]
  exact validatePi_eq (by rw [goodSquitter_syndrome hg, correctPi_of_zero]) t

theorem goodSquitter_df : msgBits f.bytes 1 5 = 17 := by
  rw [← msgDf_toNat, msgDf_eq_df]
  exact hg.2.2.1

include hd

/-- DE_DECODE, the frame's DF row and its ME row decode the frame (A9). -/
theorem exec_goodSquitter (hi : DecodesMe i f) : exec i s = exec .deDecode s := by
  obtain hi | hb := hi
  · exact exec_decodesFrame hd hi
  · obtain ⟨-, -, -, hx⟩ | ⟨hn, -⟩ := exec_meRow hb s
    · exact hx
    · have h : (validate s f s.now).decodesMe s.cfg (f.bytes.getD 4 0) = true := by
        rw [validate_of_goodSquitter hg, decodesMe_iff]
        exact ⟨rfl, goodSquitter_df hg, rfl⟩
      exact absurd (h.symm.trans (hn f hd)) (by decide)

/-- The decode of a DF17 frame of syndrome 0 completes with DIRECT_OK (R142, R147, R156). -/
theorem exec_goodSquitter_next (hi : DecodesMe i f) :
    exec i s = .next (afterDecode s .msgDirect (cacheRecord s.params s.cache (announcedAddress f.bytes) s.now)
      (some (decodeFields s.cfg (piVerdict s f s.now .directOk [])))) := by
  rw [exec_goodSquitter hd hg hi, exec_deDecode hd, validate_of_goodSquitter hg]
  rfl

end

/-- Where the fields hold of every DF17 record of the type, they hold of the decode of a DF17 frame of syndrome 0 and of every record
emitted (R138, R148, R149). -/
theorem squitter_records {typed : Byte → Prop} {fields : DecodedMessage → Prop}
    (h : ∀ cfg v, msgBits v.m 1 5 = 17 → typed (v.m.getD 4 0) → fields (decodeFields cfg v)) :
    (∀ (s : State) (f : RawFrame) (i : Instr), Decodes s f → f.GoodSquitter → DecodesMe i f → typed (f.bytes.getD 4 0) →
      ∃ r, exec i s = .next (afterDecode s .msgDirect
            (cacheRecord s.params s.cache (announcedAddress f.bytes) s.now) (some r))
        ∧ r.Checked .directOk .pi 0 [] (announcedAddress f.bytes) .aa f.bytes ∧ fields r)
    ∧ ∀ (s : State) (i : Instr) (r : DecodedMessage), EmitsRecord i s r → r.df = 17 → typed (r.msg.getD 4 0) → fields r := by
  refine ⟨fun s f i hd hg hi ht => ?_, fun s i r he hdf ht => ?_⟩
  · have hc := decodeFields_checked s.cfg (piVerdict s f s.now .directOk [])
    exact ⟨_, exec_goodSquitter_next hd hg hi, goodSquitter_syndrome hg ▸ hc, h _ _ (goodSquitter_df hg) ht⟩
  · obtain ⟨f, -, rfl⟩ := record_of_emits he
    rw [decodeFields_msg, padded_getD] at ht
    exact h _ _ (by rw [← decodeFields_df, hdf]; rfl) ht

/-- A DF17 record before its ME type's rule has no other decoded field (R159, R168). -/
theorem meHeader_others (cfg : W32) (v : Verdict) : let r := meHeader v.m (commonFields cfg v)
    r.NoAltitude ∧ r.NoPosition ∧ r.NoVelocity ∧ r.NoFlight ∧ r.NoDrUm ∧ r.NoIdentity :=
  ⟨⟨rfl, rfl, rfl⟩, ⟨rfl, rfl, rfl, rfl, rfl⟩, ⟨rfl, rfl, rfl, rfl, rfl, rfl, rfl, rfl, rfl, rfl⟩, ⟨rfl, rfl⟩, ⟨rfl, rfl, rfl⟩,
    ⟨rfl, rfl, rfl, rfl, rfl, rfl⟩⟩

/-! ### Identification (R77, R169) -/

theorem charset_eq (c : BitVec 6) : charset[c.toNat]? = some (charsetChar c) := by
  revert c; decide

/-- The characters of a flight string (R169). -/
theorem identification_flight (m : List Byte) (r : DecodedMessage) {q : Nat} (hq : q < 8) :
    (identification m r).flight[q]? = charset[msgBits (padded m) (41 + 6 * q) (46 + 6 * q)]? := by
  rw [msgBits_padded, ← msgField_toNat m (w := 6) (by omega), charset_eq]
  simp [identification, hq]

/-- Settles O46: a record of TC 1–4 is the header and the identification rule. -/
theorem identification_records : Obligations.Identification := by
  unfold Obligations.Identification
  intro typed fields
  refine squitter_records (typed := typed) (fields := fields) fun cfg v hdf ht => ?_
  obtain ⟨htc, -⟩ := byte_fields_toNat (v.m.getD 4 0)
  obtain ⟨h17, hv, hc, hs⟩ := meHeader_hasMeHeader hdf cfg
  obtain ⟨halt, hpos, hvel, -, hdr, hid⟩ := meHeader_others cfg v
  rw [decodeFields_of_byte4 hdf cfg rfl, meRule, if_pos (by rwa [htc])]
  exact ⟨h17, hv, hc, hs, rfl, rfl, fun q hq => identification_flight v.m _ hq, halt, hpos, hvel, hdr, hid⟩

/-! ### Other ME types (R82, R178) -/

/-- Settles O49: a record of such a type is the header alone. -/
theorem headerOnlyMessage : Obligations.HeaderOnlyMessage := by
  unfold Obligations.HeaderOnlyMessage
  intro typed fields
  refine squitter_records (typed := typed) (fields := fields) fun cfg v hdf ht => ?_
  obtain ⟨htc, hst⟩ := byte_fields_toNat (v.m.getD 4 0)
  obtain ⟨h17, hv, hc, hs⟩ := meHeader_hasMeHeader hdf cfg
  rw [decodeFields_of_byte4 hdf cfg rfl, meRule, if_neg (by omega), if_neg (by omega), if_neg (by omega)]
  exact ⟨h17, hv, hc, hs, meHeader_others cfg v⟩

/-! ### The verdict's part of a record (R84) -/

/-- What a verdict says of its flips, its address and its message. -/
structure Verdict.Ok (v : Verdict) : Prop where
  one : v.status = .fixed1 ↔ v.flips.length = 1
  two : v.status = .fixed2 ↔ v.flips.length = 2
  count : v.flips.length ≤ 2
  inside : ∀ j ∈ v.flips, j < v.len.bits
  address : v.addrKind = .none → v.addr = 0
  bytes : v.m.length ≤ 14

theorem flipBits_length (m : List Byte) (e : List Nat) : (flipBits m e).length = m.length := by
  unfold flipBits
  induction e generalizing m with
  | nil => rfl
  | cons j e ih => exact (ih _).trans List.length_set

/-- The positions a correction flips lie in the message, one for FIXED_1 and two for FIXED_2 (R142–R144). -/
theorem correctPi_ok {cfg : W32} {n : Nat} (hn : n ≤ 112) (x : W24) :
    ((correctPi cfg n x).1 = .fixed1 ↔ (correctPi cfg n x).2.length = 1)
      ∧ ((correctPi cfg n x).1 = .fixed2 ↔ (correctPi cfg n x).2.length = 2)
      ∧ (correctPi cfg n x).2.length ≤ 2 ∧ ∀ j ∈ (correctPi cfg n x).2, j < n := by
  obtain ⟨-, he⟩ | ⟨-, -, j0, hj, he⟩ | ⟨-, -, -, -, j0, j1, hj, he⟩ | ⟨-, -, he⟩ := correctPi_cases cfg n x <;> rw [he]
  · simp
  · obtain ⟨h0, -⟩ := (fixOne_eq_some_iff hn).1 hj
    simpa using h0
  · obtain ⟨h01, h1, -⟩ := (fixTwo_eq_some_iff hn).1 hj
    simpa using ⟨h01.trans h1, h1⟩
  · simp

theorem validate_ok (s : State) {f : RawFrame} (hf : f.Ok) (t : W32) : (validate s f t).Ok := by
  have h14 : f.bytes.length ≤ 14 := by
    rw [hf.1]
    cases f.len <;> decide
  unfold validate
  split
  · obtain ⟨h1, h2, hc, hi⟩ := correctPi_ok (cfg := s.cfg) (frameLen_bits_le f.len) (syndrome f.len.bits f.bytes)
    exact { one := h1, two := h2, count := hc, inside := hi, address := nofun, bytes := (flipBits_length _ _).trans_le h14 }
  · unfold validateAp
    dsimp only
    split <;> exact { one := by simp, two := by simp, count := by simp, inside := nofun, address := nofun, bytes := h14 }
  · unfold validateOther
    dsimp only
    split <;> exact { one := by simp, two := by simp, count := by simp, inside := nofun, address := fun _ => rfl, bytes := h14 }

/-! ### Ranges (R163, R165, R181–R183) -/

theorem altitude25_range {n : Nat} (h : n ≤ 2047) : -1000 ≤ altitude25 n ∧ altitude25 n ≤ 50175 := by
  unfold altitude25
  omega

theorem isqrtFrom_sq_le {v k r : Nat} (h : r ^ 2 ≤ v) : isqrtFrom v k r ^ 2 ≤ v := by
  induction k generalizing r with
  | zero => exact h
  | succ k ih =>
    unfold isqrtFrom
    split
    next h' => exact ih h'
    next => exact ih h

theorem speedOf_le (ew ns : BitVec 10) : speedOf ew ns ≤ 1446 := by
  have he : ew.toNat ^ 2 ≤ 1023 ^ 2 := Nat.pow_le_pow_left (by omega) 2
  have hn : ns.toNat ^ 2 ≤ 1023 ^ 2 := Nat.pow_le_pow_left (by omega) 2
  have hs : speedOf ew ns ^ 2 ≤ ew.toNat ^ 2 + ns.toNat ^ 2 := isqrtFrom_sq_le (Nat.zero_le _)
  by_contra hlt
  have h : 1447 ^ 2 ≤ speedOf ew ns ^ 2 := Nat.pow_le_pow_left (by omega) 2
  omega

theorem trackFn_le (e n : Int) : trackFn e n ≤ 359 := by
  have := (Config.trackFree e n).isLt
  unfold trackFn
  split_ifs <;> omega

theorem trackOf_le (ewDir : BitVec 1) (ew : BitVec 10) (nsDir : BitVec 1) (ns : BitVec 10) : trackOf ewDir ew nsDir ns ≤ 359 := by
  unfold trackOf
  split
  · decide
  · exact trackFn_le _ _

/-! ### The guards of a record (R84) -/

/-- The guards and ranges of R84 for the fields the field rules write. -/
structure DecodedMessage.Guarded (r : DecodedMessage) : Prop where
  drUm : r.drValid = false → r.NoDrUm
  altitude : r.altValid = false → r.alt = 0
  altRange : -1000 ≤ r.alt ∧ r.alt ≤ 50175
  identity : r.idValid = false → r.NoIdentity
  squawk : r.squawk ≤ 7777
  header : r.tcValid = false → r.NoMeHeader ∧ r.NoFlight ∧ r.NoPosition ∧ r.NoVelocity
  flight : r.flightValid = false → r.NoFlight
  flightLength : r.flight.length = 8
  position : r.posValid = false → r.NoPosition
  velocity : r.velValid = false → r.NoVelocity
  speed : r.speed ≤ 1446
  track : r.track ≤ 359

theorem commonFields_guarded (cfg : W32) (v : Verdict) : (commonFields cfg v).Guarded where
  drUm _ := ⟨rfl, rfl, rfl⟩
  altitude _ := rfl
  altRange := by simp [commonFields, DecodedMessage.blank]
  identity _ := ⟨rfl, rfl, rfl, rfl, rfl, rfl⟩
  squawk := Nat.zero_le _
  header _ := ⟨⟨rfl, rfl, rfl⟩, ⟨rfl, rfl⟩, ⟨rfl, rfl, rfl, rfl, rfl⟩, rfl, rfl, rfl, rfl, rfl, rfl, rfl, rfl, rfl, rfl⟩
  flight _ := ⟨rfl, rfl⟩
  flightLength := rfl
  position _ := ⟨rfl, rfl, rfl, rfl, rfl⟩
  velocity _ := ⟨rfl, rfl, rfl, rfl, rfl, rfl, rfl, rfl, rfl, rfl⟩
  speed := Nat.zero_le _
  track := Nat.zero_le _

section
variable {r : DecodedMessage} (h : r.Guarded) (m : List Byte)
include h

theorem altitude13_guarded : (altitude13 m r).Guarded := by
  have h1 := msgBits_lt m (a := 20) (b := 25) (n := 6) (by decide)
  have h2 := msgBits_lt m (a := 27) (b := 27) (n := 1) (by decide)
  have h3 := msgBits_lt m (a := 29) (b := 32) (n := 4) (by decide)
  unfold altitude13
  dsimp only
  split
  · exact { h with altitude := nofun, altRange := altitude25_range (by omega) }
  · exact { h with altitude := fun _ => rfl, altRange := by simp }

theorem identity13_guarded : (identity13 m r).Guarded := by
  refine { h with identity := nofun, squawk := ?_ }
  simp only [identity13]
  omega

theorem drUm_guarded : (drUm m r).Guarded := { h with drUm := nofun }

theorem meHeader_guarded : (meHeader m r).Guarded := { h with header := nofun }

theorem altitude12_guarded : (altitude12 m r).Guarded := by
  have h1 := msgBits_lt m (a := 41) (b := 47) (n := 7) (by decide)
  have h2 := msgBits_lt m (a := 49) (b := 52) (n := 4) (by decide)
  unfold altitude12
  dsimp only
  split
  · exact { h with altitude := nofun, altRange := altitude25_range (by omega) }
  · exact { h with altitude := fun _ => rfl, altRange := by simp }

variable (ht : r.tcValid = true)
include ht

theorem identification_guarded : (identification m r).Guarded :=
  { h with header := fun hf => (nomatch ht.symm.trans hf), flight := nofun, flightLength := by simp [identification] }

theorem airbornePosition_guarded : (airbornePosition m r).Guarded := by
  have hv : (altitude12 m r).tcValid = true := by
    unfold altitude12
    dsimp only
    split <;> exact ht
  exact { altitude12_guarded h m with header := fun hf => (nomatch hv.symm.trans hf), position := nofun }

theorem velocity_guarded : (velocity m r).Guarded :=
  { h with
    header := fun hf => (nomatch ht.symm.trans hf), velocity := nofun, speed := speedOf_le _ _, track := trackOf_le _ _ _ _ }

theorem meFields_guarded : (meFields m r).Guarded := by
  unfold meFields
  dsimp only
  split
  · exact identification_guarded h m ht
  · split
    · exact airbornePosition_guarded h m ht
    · split
      · exact velocity_guarded h m ht
      · exact h

end

/-- Every record keeps the guards, whatever its format (R161). -/
theorem decodeFields_guarded (cfg : W32) (v : Verdict) : (decodeFields cfg v).Guarded := by
  have h := commonFields_guarded cfg v
  unfold decodeFields formatFields
  dsimp only
  split
  · exact altitude13_guarded h v.m
  · split
    · exact drUm_guarded (altitude13_guarded h v.m) v.m
    · split
      · exact drUm_guarded (identity13_guarded h v.m) v.m
      · split
        · exact meFields_guarded (meHeader_guarded h v.m) v.m rfl
        · exact h

/-- Settles O51: the record's checksum part is a verdict's, and its decoded fields are guarded. -/
theorem recordGuards : Obligations.RecordGuards := by
  unfold Obligations.RecordGuards
  intro s t f i r ha _ _ hd hf hm hx ht
  obtain rfl := record_of_de ha hd hm hx ht
  have hv := validate_ok s hf s.now
  have hg := decodeFields_guarded s.cfg (validate s f s.now)
  obtain ⟨hst, -, -, hcount, h0, h1, haddr, hkind, hmsg⟩ := decodeFields_checked s.cfg (validate s f s.now)
  have hlen : (decodeFields s.cfg (validate s f s.now)).nBits = (validate s f s.now).len := (formatFields_kept _ _).2
  rw [hcount, h0, h1, hst, haddr, hkind, hmsg, hlen]
  have hc := hv.count
  refine ⟨hg.drUm, hg.altitude, hg.identity, hg.header, hg.flight, hg.position, hg.velocity, hc, ?_, ?_, fun j hj => ?_, hv.one,
    hv.two, hv.address, ?_, hg.flightLength, hg.altRange.1, hg.altRange.2, hg.squawk, hg.speed, hg.track⟩
  · rw [ne_eq, List.getElem?_eq_none_iff]
    omega
  · rw [ne_eq, List.getElem?_eq_none_iff]
    omega
  · exact hv.inside j (hj.elim List.mem_of_getElem? List.mem_of_getElem?)
  · rw [padded, List.length_append, List.length_replicate]
    have := hv.bytes
    omega

end Sys2Proof.Machine
end

section
/-! The magnitude's symmetries, range and small values (40_magnitude.md): all follow from each sample's distance from the midscale 128. -/

namespace Sys2Proof.Machine

/-! ### The distance of a sample from the midscale (R87) -/

/-- How far a sample lies from the midscale 128 (R87). -/
def midDistance (x : Byte) : Nat := (x.toNat - 128 : Int).natAbs

theorem midDistance_le (x : Byte) : midDistance x ≤ 128 := by
  have hx := x.isLt
  rw [midDistance]
  omega

/-- Midscale is its own mirror image, so mirroring a sample keeps its distance (R92). -/
theorem midDistance_zero_sub (x : Byte) : midDistance (0 - x) = midDistance x := by
  have hx := x.isLt
  have hneg : (0 - x).toNat = (256 - x.toNat) % 256 := by simp
  rw [midDistance, midDistance, hneg]
  omega

theorem midDistance_eq_zero_iff (x : Byte) : midDistance x = 0 ↔ x = 128 := by
  rw [midDistance, BitVec.toNat_eq, show (128 : Byte).toNat = 128 from rfl]
  omega

theorem midDistance_eq_one_iff (x : Byte) : midDistance x = 1 ↔ x = 127 ∨ x = 129 := by
  rw [midDistance, BitVec.toNat_eq, BitVec.toNat_eq, show (127 : Byte).toNat = 127 from rfl, show (129 : Byte).toNat = 129 from rfl]
  omega

/-! ### The magnitude as a sum of two squares (R89, R90) -/

theorem magnitude_toNat_midDistance (i q : Byte) : (magnitude i q).toNat = midDistance i ^ 2 + midDistance q ^ 2 := by
  have h := magnitude_toNat i q
  rw [← Int.natAbs_sq, ← Int.natAbs_sq (q.toNat - 128 : Int)] at h
  exact_mod_cast h

/-- The magnitude sees of its samples their distances only (R92). -/
theorem magnitude_congr {i q i' q' : Byte} (hi : midDistance i = midDistance i') (hq : midDistance q = midDistance q') :
    magnitude i q = magnitude i' q' := by
  rw [BitVec.toNat_eq, magnitude_toNat_midDistance, magnitude_toNat_midDistance, hi, hq]

/-- I and Q count alike (R92). -/
theorem magnitude_comm (i q : Byte) : magnitude q i = magnitude i q := BitVec.add_comm (sq q) (sq i)

/-- The greatest magnitude is that of the sample 0 twice (R87). -/
theorem magnitude_le (i q : Byte) : (magnitude i q).toNat ≤ 32768 := by
  rw [magnitude_toNat_midDistance]
  exact Nat.add_le_add (Nat.pow_le_pow_left (midDistance_le i) 2) (Nat.pow_le_pow_left (midDistance_le q) 2)

theorem magnitude_eq_zero_iff (i q : Byte) : magnitude i q = 0 ↔ i = 128 ∧ q = 128 := by
  rw [BitVec.toNat_eq, magnitude_toNat_midDistance, ← midDistance_eq_zero_iff i, ← midDistance_eq_zero_iff q]
  simp

/-- A sum of two squares is 1 when one of them is 1 and the other 0 (R228). -/
theorem magnitude_eq_one_iff (i q : Byte) :
    magnitude i q = 1 ↔ (i = 127 ∧ q = 128) ∨ (i = 129 ∧ q = 128) ∨ (i = 128 ∧ q = 127) ∨ (i = 128 ∧ q = 129) := by
  have hone : magnitude i q = 1 ↔ (midDistance i = 0 ∧ midDistance q = 1) ∨ (midDistance i = 1 ∧ midDistance q = 0) := by
    rw [BitVec.toNat_eq, magnitude_toNat_midDistance, show (1 : W16).toNat = 1 from rfl, Nat.add_eq_one_iff]
    simp
  rw [hone, midDistance_eq_zero_iff, midDistance_eq_zero_iff, midDistance_eq_one_iff, midDistance_eq_one_iff]
  tauto

/-! ### The marks (R110) -/

/-- A number that a prime of the form 4k + 3 divides exactly once is no sum of two squares. -/
theorem sq_add_sq_ne_of_prime_dvd_once {p n : Nat} (hp : p.Prime) (hmod : p % 4 = 3) (hdvd : p ∣ n) (honce : ¬ p ^ 2 ∣ n) (a b : Nat) :
    a ^ 2 + b ^ 2 ≠ n := by
  intro h
  have : Fact p.Prime := ⟨hp⟩
  have hn : n ≠ 0 := fun h0 => honce (h0 ▸ dvd_zero _)
  have heven : Even (padicValNat p n) := Nat.eq_sq_add_sq_iff.1 ⟨a, b, h.symm⟩ p (Nat.mem_primeFactors.2 ⟨hp, hdvd, hn⟩) hmod
  have hge : 1 ≤ padicValNat p n := one_le_padicValNat_of_dvd hn hdvd
  rw [padicValNat_dvd_iff_le hn] at honce
  obtain ⟨k, hk⟩ := heven
  omega

theorem magnitude_ne_of_prime_dvd_once {p : Nat} {w : W16} (hp : p.Prime) (hmod : p % 4 = 3) (hdvd : p ∣ w.toNat)
    (honce : ¬ p ^ 2 ∣ w.toNat) (i q : Byte) : magnitude i q ≠ w := by
  rw [ne_eq, BitVec.toNat_eq, magnitude_toNat_midDistance]
  exact sq_add_sq_ne_of_prime_dvd_once hp hmod hdvd honce _ _

/-- The default marks 253 = 11 · 23, 254 = 2 · 127 and 255 = 3 · 85 are no magnitudes (R110). -/
theorem magnitude_ne_marks (i q : Byte) : magnitude i q ≠ 253 ∧ magnitude i q ≠ 254 ∧ magnitude i q ≠ 255 :=
  ⟨magnitude_ne_of_prime_dvd_once (p := 23) (by norm_num) rfl (by decide) (by decide) i q,
    magnitude_ne_of_prime_dvd_once (p := 127) (by norm_num) rfl (by decide) (by decide) i q,
    magnitude_ne_of_prime_dvd_once (p := 3) (by norm_num) rfl (by decide) (by decide) i q⟩

/-- Settles O22: a magnitude is the sum of its samples' squared distances from 128. -/
theorem magnitudeSymmetry : Obligations.MagnitudeSymmetry := by
  unfold Obligations.MagnitudeSymmetry
  exact ⟨(magnitude_eq_zero_iff 128 128).2 ⟨rfl, rfl⟩, fun i q =>
    ⟨magnitude_congr (midDistance_zero_sub i) rfl, magnitude_congr rfl (midDistance_zero_sub q), magnitude_comm i q,
      magnitude_le i q, magnitude_eq_zero_iff i q, magnitude_eq_one_iff i q, magnitude_ne_marks i q⟩⟩

end Sys2Proof.Machine
end

section
/-! The preamble test and the bit decision, rule by rule (R95, R99–R103). -/

namespace Sys2Proof.Machine

/-! ### The preamble test (R95) -/

/-- One position of the test: it replaces one reference, and the high one has to stay above the low one. -/
theorem preambleFrom_cons (w : List W16) (i k : Nat) (ks : List Nat) (high low : W16) :
    preambleFrom w i (k :: ks) high low = true ↔
      (if preambleHigh k then low else w.getD (i + k) 0) < (if preambleHigh k then w.getD (i + k) 0 else high)
        ∧ preambleFrom w i ks (if preambleHigh k then w.getD (i + k) 0 else high)
            (if preambleHigh k then low else w.getD (i + k) 0) = true := by
  simp [preambleFrom, BitVec.not_le]

/-- Settles O23: the 16 positions in turn, each with the reference that stands against it. -/
theorem preambleTest : Obligations.PreambleTest := by
  unfold Obligations.PreambleTest
  intro w i
  have hend : ∀ high low, preambleFrom w i [] high low = true := fun _ _ => rfl
  rw [preamble, show List.range 16 = [0, 1, 2, 3, 4, 5, 6, 7, 8, 9, 10, 11, 12, 13, 14, 15] from rfl]
  simp only [preambleFrom_cons, hend]
  simp [preambleHigh]

/-! ### The policy that QUALITY selects (R99) -/

theorem singleManchester_zero (a b c d : W16) : singleManchester 0 a b c d = decideTrust c d := rfl

theorem singleManchester_five (a b c d : W16) : singleManchester 5 a b c d = decideSign a b c d := rfl

theorem singleManchester_ten (a b c d : W16) : singleManchester 10 a b c d = decideConfirm a b c d := rfl

theorem singleManchester_other {quality : Byte} (h0 : quality ≠ 0) (h5 : quality ≠ 5) (h10 : quality ≠ 10) (a b c d : W16) :
    singleManchester quality a b c d = decideStrict a b c d := by
  rw [singleManchester, policyOf, if_neg h0, if_neg h5, if_neg h10]

/-! ### What each policy decides (R100–R103) -/

/-- A bit that is returned on a confirmation P alone. -/
theorem confirmed_eq_bit_iff (P : Prop) [Decidable P] (x y : Bool) :
    (if P then Decision.bit x else .badSample) = .bit y ↔ P ∧ x = y := by
  split <;> simp [*]

section
variable {a b c d : W16} {x : Bool}

theorem decideSign_eq_badSample_iff :
    decideSign a b c d = .badSample ↔ (d < c ∧ b < a ∧ c < b) ∨ (¬ d < c ∧ ¬ b < a ∧ b < c) := by
  by_cases hbit : d < c <;> by_cases hprev : b < a <;>
    simp [decideSign, bitFlag, prevBitFlag, hbit, hprev]

theorem eq_bitFlag_of_decideSign (h : decideSign a b c d = .bit x) : x = bitFlag c d := by
  rw [decideSign] at h
  split at h
  · cases h
  · split at h
    · cases h
    · exact (Decision.bit.inj h).symm

theorem decideConfirm_eq_true_iff :
    decideConfirm a b c d = .bit true ↔ d < c ∧ ((b < a ∧ b < c) ∨ (¬ b < a ∧ d < b)) := by
  by_cases hbit : d < c <;> by_cases hprev : b < a <;>
    simp [decideConfirm, bitFlag, prevBitFlag, hbit, hprev, confirmed_eq_bit_iff]

theorem decideConfirm_eq_false_iff :
    decideConfirm a b c d = .bit false ↔ ¬ d < c ∧ ((b < a ∧ b < d) ∨ (¬ b < a ∧ c < b)) := by
  by_cases hbit : d < c <;> by_cases hprev : b < a <;>
    simp [decideConfirm, bitFlag, prevBitFlag, hbit, hprev, confirmed_eq_bit_iff]

theorem decideStrict_eq_true_iff :
    decideStrict a b c d = .bit true ↔ d < c ∧ ((b < a ∧ b < c ∧ d < a) ∨ (¬ b < a ∧ a < c ∧ d < b)) := by
  by_cases hbit : d < c <;> by_cases hprev : b < a <;>
    simp [decideStrict, bitFlag, prevBitFlag, hbit, hprev, confirmed_eq_bit_iff]

theorem decideStrict_eq_false_iff :
    decideStrict a b c d = .bit false ↔ ¬ d < c ∧ ((b < a ∧ c < a ∧ b < d) ∨ (¬ b < a ∧ c < b ∧ a < d)) := by
  by_cases hbit : d < c <;> by_cases hprev : b < a <;>
    simp [decideStrict, bitFlag, prevBitFlag, hbit, hprev, confirmed_eq_bit_iff]

/-- STRICT confirms a bit by CONFIRM's comparison and one more. -/
theorem decideConfirm_of_decideStrict (h : decideStrict a b c d = .bit x) : decideConfirm a b c d = .bit x := by
  cases x with
  | true =>
    rw [decideStrict_eq_true_iff] at h
    rw [decideConfirm_eq_true_iff]
    tauto
  | false =>
    rw [decideStrict_eq_false_iff] at h
    rw [decideConfirm_eq_false_iff]
    tauto

/-- Where the signs agree, CONFIRM's comparison with b is the opposite of the one that SIGN rejects. -/
theorem decideSign_of_decideConfirm (h : decideConfirm a b c d = .bit x) : decideSign a b c d = .bit x := by
  have hx : x = bitFlag c d ∧ decideSign a b c d ≠ .badSample := by
    rw [ne_eq, decideSign_eq_badSample_iff]
    cases x with
    | true =>
      obtain ⟨hbit, hcmp⟩ := decideConfirm_eq_true_iff.1 h
      refine ⟨(decide_eq_true hbit).symm, ?_⟩
      rintro (⟨-, hprev, hlt⟩ | ⟨hn, -⟩)
      · obtain ⟨-, hgt⟩ | ⟨hn, -⟩ := hcmp
        · exact BitVec.lt_asymm hlt hgt
        · exact hn hprev
      · exact hn hbit
    | false =>
      obtain ⟨hbit, hcmp⟩ := decideConfirm_eq_false_iff.1 h
      refine ⟨(decide_eq_false hbit).symm, ?_⟩
      rintro (⟨hn, -⟩ | ⟨-, hprev, hlt⟩)
      · exact hbit hn
      · obtain ⟨hn, -⟩ | ⟨-, hgt⟩ := hcmp
        · exact hprev hn
        · exact BitVec.lt_asymm hlt hgt
  obtain ⟨rfl, hbad⟩ := hx
  cases hs : decideSign a b c d with
  | bit y => rw [eq_bitFlag_of_decideSign hs]
  | badSample => exact absurd hs hbad

end

/-- Settles O24: each policy by its own rule, STRICT within CONFIRM within SIGN. -/
theorem bitDecisions : Obligations.BitDecisions := by
  unfold Obligations.BitDecisions
  intro a b c d
  rw [singleManchester_zero, singleManchester_five, singleManchester_ten]
  refine ⟨fun x => ?_, nofun, decideSign_eq_badSample_iff, fun x => eq_bitFlag_of_decideSign, decideConfirm_eq_true_iff,
    decideConfirm_eq_false_iff, fun quality h0 h5 h10 => ?_⟩
  · rw [decideTrust, Decision.bit.injEq, eq_comm, bitFlag]
  · rw [singleManchester_other h0 h5 h10]
    exact ⟨decideStrict_eq_true_iff, decideStrict_eq_false_iff, fun _ => decideConfirm_of_decideStrict,
      fun _ => decideSign_of_decideConfirm⟩

end Sys2Proof.Machine
end

section
/-! The moves of a DEMOD pass one by one, and why a pass ends or repeats one pair for ever (R94, R104–R108, R229). -/

namespace Sys2Proof.Machine

/-! ### The moves of a run (R98, R104–R107) -/

/-- The words after a pair with the result x: OVERWRITE on its samples, then the bit at the output position (R107). -/
def pairWords (p : Params) (r : DemodRegs) (w : List W16) (x : Bool) : List W16 :=
  ((w.set r.i p.markOver).set (r.i + 1) p.markOver).set r.i2 (bitWord x)

@[simp] theorem pairWords_length (p : Params) (r : DemodRegs) (w : List W16) (x : Bool) : (pairWords p r w x).length = w.length := by
  simp [pairWords]

theorem getD_set {w : List W16} {i k : Nat} (x : W16) (hk : k < w.length) :
    (w.set i x).getD k 0 = if k = i then x else w.getD k 0 := by
  simp only [List.getD_eq_getElem?_getD, List.getElem?_set, eq_comm (a := k)]
  split
  next h => simp [h, hk]
  next => rfl

theorem pairWords_getD (p : Params) (r : DemodRegs) {w : List W16} (x : Bool) {k : Nat} (hk : k < w.length) :
    (pairWords p r w x).getD k 0 =
      if k = r.i2 then bitWord x else if k = r.i ∨ k = r.i + 1 then p.markOver else w.getD k 0 := by
  rw [pairWords, getD_set _ (by simpa using hk), getD_set _ (by simpa using hk), getD_set _ hk]
  simp only [or_comm (a := k = r.i), ite_or]

section
variable {p : Params} {quality : Byte} {allowed : Nat} {r : DemodRegs} {w : List W16}

theorem demodMove_of_decode (hm : r.mode = .decode) : demodMove p quality allowed r w = demodPair p quality allowed r w := by
  rw [demodMove, hm]

theorem demodMove_of_search (hm : r.mode = .search) : demodMove p quality allowed r w = demodSearch p r w := by
  rw [demodMove, hm]

section
variable (hm : r.mode = .decode) (hl : r.i + 1 < w.length)
include hm hl

/-- An accepted bit: the references become the pair (R98, R107). -/
theorem demodMove_of_bit {x : Bool} (hs : singleManchester quality r.a r.b (w.getD r.i 0) (w.getD (r.i + 1) 0) = .bit x) :
    demodMove p quality allowed r w =
      .more { r with a := w.getD r.i 0, b := w.getD (r.i + 1) 0, i := r.i + 2, i2 := r.i2 + 1 } (pairWords p r w x) := by
  rw [demodMove_of_decode hm]
  simp only [demodPair, if_pos hl, hs]
  rfl

variable (hs : singleManchester quality r.a r.b (w.getD r.i 0) (w.getD (r.i + 1) 0) = .badSample)
include hs

/-- A forced bit: the references become (0, 0xFFFF) (R105). -/
theorem demodMove_of_forced (he : r.errors + 1 ≤ allowed) :
    demodMove p quality allowed r w =
      .more { r with a := 0, b := 0xFFFF, errors := r.errors + 1, i := r.i + 2, i2 := r.i2 + 1 }
        (pairWords p r w (bitFlag (w.getD r.i 0) (w.getD (r.i + 1) 0))) := by
  rw [demodMove_of_decode hm]
  simp only [demodPair, if_pos hl, hs, if_neg (Nat.not_lt.2 he)]
  rfl

/-- A run past its budget ends where it stands (R106). -/
theorem demodMove_of_rejected (he : allowed < r.errors + 1) :
    demodMove p quality allowed r w =
      .more { r with a := w.getD r.i 0, b := w.getD (r.i + 1) 0, errors := r.errors + 1, mode := .search }
        (w.set r.i2 p.markBad) := by
  rw [demodMove_of_decode hm]
  simp only [demodPair, if_pos hl, hs, if_pos he]

end

/-- A run ends with the block (R98). -/
theorem demodMove_of_run_end (hm : r.mode = .decode) (hl : ¬ r.i + 1 < w.length) :
    demodMove p quality allowed r w = .more { r with mode := .search } w := by
  rw [demodMove_of_decode hm]
  simp only [demodPair, if_neg hl]

end

/-- Settles O25: the three moves of a run inside the block, and what they write. -/
theorem pairOutcome : Obligations.PairOutcome := by
  unfold Obligations.PairOutcome
  intro p quality allowed r w hm _ hl
  exact ⟨fun x hs => ⟨_, ⟨pairWords_length p r w x, fun k => pairWords_getD p r x⟩, demodMove_of_bit hm hl hs⟩,
    fun hs he => ⟨_, ⟨pairWords_length p r w _, fun k => pairWords_getD p r _⟩, demodMove_of_forced hm hl hs he⟩,
    fun hs he => ⟨_, ⟨List.length_set, fun k => getD_set _⟩, demodMove_of_rejected hm hl hs he⟩⟩

/-! ### What a pass has not reached (R96, R98) -/

theorem markWindow_drop (p : Params) (w : List W16) {i m : Nat} (h : i + 16 ≤ m) : (markWindow p w i).drop m = w.drop m := by
  have hks : ∀ k ∈ List.range 16, i + k < m := fun k hk => by have := List.mem_range.1 hk; omega
  unfold markWindow
  generalize List.range 16 = ks at hks ⊢
  induction ks generalizing w with
  | nil => rfl
  | cons k ks ih =>
    rw [List.foldl_cons, ih _ fun j hj => hks j (List.mem_cons_of_mem k hj), List.drop_set_of_lt (hks k List.mem_cons_self)]

/-- A run's output position is behind its pair, but for the run's first pair, which no error precedes (R98, R107). -/
structure DemodRegs.Ok (r : DemodRegs) : Prop where
  out_le : r.mode = .decode → r.i2 ≤ r.i
  first : r.mode = .decode → r.i2 = r.i → r.errors = 0

theorem demodRegs_ok_search {r : DemodRegs} (h : r.mode = .search) : r.Ok :=
  ⟨fun hd => by simp [h] at hd, fun hd => by simp [h] at hd⟩

theorem demodRegs_ok_beginRun (r : DemodRegs) : r.beginRun.Ok := ⟨fun _ => Nat.le_refl _, fun _ _ => rfl⟩

/-! ### The tail (R108) -/

/-- A failed search at i starts a run there (R108). -/
def inTail (p : Params) (r : DemodRegs) (w : List W16) : Bool :=
  p.tailDecode && decide (r.i + 1 < w.length ∧ w.length < r.i + 17)

theorem inTail_iff {p : Params} {r : DemodRegs} {w : List W16} :
    inTail p r w = true ↔ p.tailDecode = true ∧ r.i + 1 < w.length ∧ w.length < r.i + 17 := by
  simp [inTail]

/-- How often a run that starts at i can still be rejected there before its pair, MARK_BADSAMPLE and the word after it, is its own
reference (R108). -/
def triesLeft (p : Params) (r : DemodRegs) (w : List W16) : Nat :=
  if w.getD r.i 0 ≠ p.markBad then 2 else if r.a = p.markBad ∧ r.b = w.getD (r.i + 1) 0 then 0 else 1

section
variable {p : Params} {quality : Byte} {allowed : Nat} {r : DemodRegs} {w : List W16}

theorem triesLeft_le : triesLeft p r w ≤ 2 := by
  unfold triesLeft
  split_ifs <;> decide

theorem triesLeft_eq_zero_iff :
    triesLeft p r w = 0 ↔ w.getD r.i 0 = p.markBad ∧ r.a = p.markBad ∧ r.b = w.getD (r.i + 1) 0 := by
  by_cases hc : w.getD r.i 0 = p.markBad
  · rw [triesLeft, if_neg (not_not.2 hc), and_iff_right hc]
    split
    next h => exact ⟨fun _ => h, fun _ => rfl⟩
    next h => exact ⟨nofun, fun h' => absurd h' h⟩
  · rw [triesLeft, if_pos hc]
    exact ⟨nofun, fun h => absurd h.1 hc⟩

theorem demodSearch_of_tail (h : inTail p r w = true) : demodSearch p r w = .more r.beginRun w := by
  obtain ⟨ht, hl, hn⟩ := inTail_iff.1 h
  rw [demodSearch, if_pos hl, if_neg (Nat.not_le.2 hn), if_pos ht]

/-- Past the last window the search ends the pass, but for the tail (R96). -/
theorem demodSearch_of_end (hn : w.length < r.i + 17) (h : inTail p r w = false) : demodSearch p r w = .done w := by
  rw [demodSearch, if_neg (Nat.not_le.2 hn)]
  split
  next hl => rw [if_neg fun ht => Bool.eq_false_iff.1 h (inTail_iff.2 ⟨ht, hl, hn⟩)]
  next => rfl

/-- The registers after a rejected pair (R106). -/
def DemodRegs.reject (r : DemodRegs) (w : List W16) : DemodRegs :=
  { r with a := w.getD r.i 0, b := w.getD (r.i + 1) 0, errors := r.errors + 1, mode := .search }

/-- A run rejected at its first pair has one try less. -/
theorem triesLeft_reject (hl : r.i + 1 < w.length) :
    triesLeft p (r.reject w) (w.set r.i p.markBad) ≤ triesLeft p r w - 1 := by
  have h0 : (w.set r.i p.markBad).getD r.i 0 = p.markBad := by rw [getD_set _ (by omega), if_pos rfl]
  have h1 : (w.set r.i p.markBad).getD (r.i + 1) 0 = w.getD (r.i + 1) 0 := by rw [getD_set _ hl, if_neg (by omega)]
  by_cases hc : w.getD r.i 0 = p.markBad
  · have hz : triesLeft p (r.reject w) (w.set r.i p.markBad) = 0 := triesLeft_eq_zero_iff.2 ⟨h0, hc, h1.symm⟩
    omega
  · have ht : triesLeft p r w = 2 := if_pos hc
    have hle : triesLeft p (r.reject w) (w.set r.i p.markBad) ≤ 1 := by
      have h0' : (w.set r.i p.markBad).getD (r.reject w).i 0 = p.markBad := h0
      rw [triesLeft, if_neg (not_not.2 h0')]
      split <;> decide
    omega

/-! ### The moves that a pass has left

Every move but a run's start and end advances i, and in the tail a position is tried `triesLeft` times more. The weight 6 of the tail's
positions pays for the tries at the next one. -/

/-- How many moves can follow at the position i. -/
def movesHere (p : Params) (r : DemodRegs) (w : List W16) : Nat :=
  match r.mode with
  | .search => if inTail p r w then 2 * triesLeft p r w + 2 else 0
  | .decode => if inTail p r w = true ∧ r.i2 = r.i then 2 * triesLeft p r w + 1 else 7

/-- How many moves can follow. -/
def movesLeft (p : Params) (r : DemodRegs) (w : List W16) : Nat :=
  (w.length - r.i) + 6 * min (w.length - r.i) 17 + movesHere p r w

theorem movesHere_le : movesHere p r w ≤ 7 := by
  have := triesLeft_le (p := p) (r := r) (w := w)
  unfold movesHere
  split <;> split <;> omega

theorem movesHere_search_le (hm : r.mode = .search) : movesHere p r w ≤ 6 := by
  have := triesLeft_le (p := p) (r := r) (w := w)
  rw [movesHere, hm]
  dsimp only
  split <;> omega

theorem movesHere_search (hm : r.mode = .search) (ht : inTail p r w = false) : movesHere p r w = 0 := by
  rw [movesHere, hm]
  simp [ht]

theorem movesHere_search_tail (hm : r.mode = .search) (ht : inTail p r w = true) : movesHere p r w = 2 * triesLeft p r w + 2 := by
  rw [movesHere, hm]
  simp [ht]

theorem movesHere_first (hm : r.mode = .decode) (ht : inTail p r w = true) (hi : r.i2 = r.i) :
    movesHere p r w = 2 * triesLeft p r w + 1 := by
  rw [movesHere, hm]
  simp [ht, hi]

theorem movesHere_decode (hm : r.mode = .decode) (h : ¬ (inTail p r w = true ∧ r.i2 = r.i)) : movesHere p r w = 7 := by
  rw [movesHere, hm]
  exact if_neg h

/-- What a move leaves when the pass goes on: fewer moves, and the words ahead of i as they were. -/
structure DemodProgress (p : Params) (r : DemodRegs) (w : List W16) (r' : DemodRegs) (w' : List W16) : Prop where
  ok : r'.Ok
  advance : r.i ≤ r'.i
  ahead : w'.drop (r'.i + 1) = w.drop (r'.i + 1)
  moves : movesLeft p r' w' < movesLeft p r w

/-- A move ends the pass or brings it nearer its end. -/
def DemodMove.Progress (p : Params) (r : DemodRegs) (w : List W16) : DemodMove → Prop
  | .more r' w' => DemodProgress p r w r' w'
  | .done _ => True

/-- Before the tail a search counts no tries. -/
theorem movesLeft_search (hm : r.mode = .search) (hl : r.i + 17 ≤ w.length) : movesLeft p r w = (w.length - r.i) + 6 * 17 := by
  have ht : inTail p r w = false := Bool.eq_false_iff.2 fun h => by have := inTail_iff.1 h; omega
  rw [movesLeft, movesHere_search hm ht, Nat.min_eq_right (by omega), Nat.add_zero]

/-- A match advances by 16 words, which pays for the moves at the run's first pair. -/
theorem demodProgress_of_match {r' : DemodRegs} (hm : r.mode = .search) (hl : r.i + 17 ≤ w.length) (hok : r'.Ok)
    (hi : r'.i = r.i + 16) : DemodProgress p r w r' (markWindow p w r.i) := by
  refine ⟨hok, by omega, markWindow_drop p w (by omega), ?_⟩
  have hle := @movesHere_le p r' (markWindow p w r.i)
  rw [movesLeft_search hm hl, movesLeft, markWindow_length, hi]
  omega

/-- The search's next position is as cheap, and where it is the tail's first, the tail is one position shorter. -/
theorem demodProgress_of_no_match {r' : DemodRegs} (hm : r.mode = .search) (hl : r.i + 17 ≤ w.length) (hm' : r'.mode = .search)
    (hi : r'.i = r.i + 1) : DemodProgress p r w r' w := by
  refine ⟨demodRegs_ok_search hm', by omega, rfl, ?_⟩
  rw [movesLeft_search hm hl]
  by_cases hl' : r'.i + 17 ≤ w.length
  · rw [movesLeft_search hm' hl']
    omega
  · have hle := @movesHere_search_le p r' w hm'
    rw [movesLeft]
    omega

theorem demodSearch_progress (hm : r.mode = .search) : (demodSearch p r w).Progress p r w := by
  by_cases hl : r.i + 17 ≤ w.length
  · cases hp : preamble w r.i with
    | true =>
      rw [demodSearch_of_match hl hp]
      exact demodProgress_of_match hm hl (demodRegs_ok_beginRun _) rfl
    | false =>
      rw [demodSearch_of_no_match hl hp]
      exact demodProgress_of_no_match hm hl hm rfl
  · by_cases ht : inTail p r w = true
    · rw [demodSearch_of_tail ht]
      refine ⟨demodRegs_ok_beginRun r, Nat.le_refl _, rfl, ?_⟩
      have hfirst : movesHere p r.beginRun w = 2 * triesLeft p r w + 1 := movesHere_first rfl ht rfl
      rw [movesLeft, movesLeft, hfirst, movesHere_search_tail hm ht]
      exact Nat.lt_succ_self _
    · rw [demodSearch_of_end (by omega) (Bool.eq_false_iff.2 ht)]
      trivial

/-- A pair with a result advances the run by two words, which pays for the moves at the next pair. -/
theorem demodProgress_of_pair {r' : DemodRegs} {x : Bool} (hm : r.mode = .decode) (hr : r.Ok) (hl : r.i + 1 < w.length)
    (hi : r'.i = r.i + 2) (hi2 : r'.i2 = r.i2 + 1) : DemodProgress p r w r' (pairWords p r w x) := by
  have hout := hr.out_le hm
  refine ⟨⟨fun _ => by omega, fun _ h => by omega⟩, by omega, ?_, ?_⟩
  · simp only [pairWords]
    rw [List.drop_set_of_lt (by omega), List.drop_set_of_lt (by omega), List.drop_set_of_lt (by omega)]
  · have hle := @movesHere_le p r' (pairWords p r w x)
    rw [movesLeft, movesLeft, pairWords_length, hi]
    by_cases hf : inTail p r w = true ∧ r.i2 = r.i
    · obtain ⟨-, -, hn⟩ := inTail_iff.1 hf.1
      rw [movesHere_first hm hf.1 hf.2]
      omega
    · rw [movesHere_decode hm hf]
      omega

/-- A rejected pair leaves fewer moves, unless it was its own reference. -/
theorem demodProgress_of_rejected (hm : r.mode = .decode) (hr : r.Ok) (hl : r.i + 1 < w.length)
    (h : ¬ (inTail p r w = true ∧ r.i2 = r.i ∧ triesLeft p r w = 0)) :
    DemodProgress p r w (r.reject w) (w.set r.i2 p.markBad) := by
  have hout := hr.out_le hm
  refine ⟨demodRegs_ok_search rfl, Nat.le_refl _, List.drop_set_of_lt (Nat.lt_succ_of_le hout), ?_⟩
  have hhere : movesHere p (r.reject w) (w.set r.i2 p.markBad) < movesHere p r w := by
    by_cases hf : inTail p r w = true ∧ r.i2 = r.i
    · obtain ⟨ht, hi⟩ := hf
      have htries := triesLeft_reject (p := p) hl
      have ht' : inTail p (r.reject w) (w.set r.i p.markBad) = true := by
        rw [inTail_iff, List.length_set]
        exact inTail_iff.1 ht
      rw [movesHere_first hm ht hi, hi, movesHere_search_tail rfl ht']
      have hne : triesLeft p r w ≠ 0 := fun hz => h ⟨ht, hi, hz⟩
      omega
    · rw [movesHere_decode hm hf]
      exact Nat.lt_succ_of_le (movesHere_search_le rfl)
  rw [movesLeft, movesLeft, List.length_set]
  exact Nat.add_lt_add_left hhere _

/-! ### The hang (R108, R229) -/

/-- A run without an error budget starts at a pair that is its own reference, and rejects it. -/
structure DemodHangs (p : Params) (quality : Byte) (allowed : Nat) (r : DemodRegs) (w : List W16) : Prop where
  tail : inTail p r w = true
  allowed : allowed = 0
  tries : triesLeft p r w = 0
  rejected : singleManchester quality p.markBad (w.getD (r.i + 1) 0) p.markBad (w.getD (r.i + 1) 0) = .badSample
  first : r.mode = .decode → r.i2 = r.i

theorem set_of_getD {i : Nat} {x : W16} (hi : i < w.length) (h : w.getD i 0 = x) : w.set i x = w := by
  rw [← h, List.getD_eq_getElem _ _ hi, List.set_getElem_self]

/-- A move of the hang leads to the hang. -/
theorem demodMove_of_hangs (h : DemodHangs p quality allowed r w) :
    ∃ r' w', demodMove p quality allowed r w = .more r' w' ∧ DemodHangs p quality allowed r' w' := by
  obtain ⟨ht, rfl, htries, hrej, hfirst⟩ := h
  obtain ⟨hc, ha, hb⟩ := triesLeft_eq_zero_iff.1 htries
  obtain ⟨-, hl, -⟩ := inTail_iff.1 ht
  cases hm : r.mode with
  | search => exact ⟨_, _, (demodMove_of_search hm).trans (demodSearch_of_tail ht), ht, rfl, htries, hrej, fun _ => rfl⟩
  | decode =>
    have hs : singleManchester quality r.a r.b (w.getD r.i 0) (w.getD (r.i + 1) 0) = .badSample := by rw [ha, hb, hc, hrej]
    have hw : w.set r.i2 p.markBad = w := by rw [hfirst hm, set_of_getD (by omega) hc]
    refine ⟨_, _, demodMove_of_rejected hm hl hs (Nat.succ_pos _), ?_⟩
    rw [hw]
    exact ⟨ht, rfl, triesLeft_eq_zero_iff.2 ⟨hc, hc, rfl⟩, hrej, nofun⟩

/-- A move ends the pass, brings it nearer its end, or is a move of the hang. -/
theorem demodMove_progress (hr : r.Ok) :
    (demodMove p quality allowed r w).Progress p r w ∨ DemodHangs p quality allowed r w := by
  cases hm : r.mode with
  | search => exact .inl (demodMove_of_search hm ▸ demodSearch_progress hm)
  | decode =>
    by_cases hl : r.i + 1 < w.length
    · cases hs : singleManchester quality r.a r.b (w.getD r.i 0) (w.getD (r.i + 1) 0) with
      | bit x =>
        rw [demodMove_of_bit hm hl hs]
        exact .inl (demodProgress_of_pair hm hr hl rfl rfl)
      | badSample =>
        by_cases he : r.errors + 1 ≤ allowed
        · rw [demodMove_of_forced hm hl hs he]
          exact .inl (demodProgress_of_pair hm hr hl rfl rfl)
        · by_cases h : inTail p r w = true ∧ r.i2 = r.i ∧ triesLeft p r w = 0
          · obtain ⟨ht, hi, htries⟩ := h
            obtain ⟨hc, ha, hb⟩ := triesLeft_eq_zero_iff.1 htries
            have herr := hr.first hm hi
            rw [ha, hb, hc] at hs
            exact .inr ⟨ht, by omega, htries, hs, fun _ => hi⟩
          · rw [demodMove_of_rejected hm hl hs (Nat.lt_of_not_le he)]
            exact .inl (demodProgress_of_rejected hm hr hl h)
    · rw [demodMove_of_run_end hm hl]
      refine .inl ⟨demodRegs_ok_search rfl, Nat.le_refl _, rfl, ?_⟩
      have ht : inTail p r w = false := Bool.eq_false_iff.2 fun h => hl (inTail_iff.1 h).2.1
      have hhere : movesHere p { r with mode := .search } w = 0 := movesHere_search rfl ht
      rw [movesLeft, movesLeft, hhere, movesHere_decode hm (by simp [ht])]
      exact Nat.lt_add_of_pos_right (by decide)

/-! ### A whole pass (R94, R108) -/

theorem demodRun_succ_of_more {r' : DemodRegs} {w' : List W16} (h : demodMove p quality allowed r w = .more r' w') (fuel : Nat) :
    demodRun p quality allowed (fuel + 1) r w = demodRun p quality allowed fuel r' w' := by
  rw [demodRun, h]

theorem demodRun_succ_of_done {w' : List W16} (h : demodMove p quality allowed r w = .done w') (fuel : Nat) :
    demodRun p quality allowed (fuel + 1) r w = some w' := by
  rw [demodRun, h]

/-- More moves find the same result. -/
theorem demodRun_add {fuel : Nat} (more : Nat) {w' : List W16} (h : demodRun p quality allowed fuel r w = some w') :
    demodRun p quality allowed (fuel + more) r w = some w' := by
  induction fuel generalizing r w with
  | zero => cases h
  | succ fuel ih =>
    rw [Nat.succ_add]
    cases hmove : demodMove p quality allowed r w with
    | more r' u =>
      rw [demodRun_succ_of_more hmove] at h ⊢
      exact ih h
    | done u =>
      rw [demodRun_succ_of_done hmove] at h ⊢
      exact h

theorem demodRun_of_hangs (h : DemodHangs p quality allowed r w) (fuel : Nat) : demodRun p quality allowed fuel r w = none := by
  induction fuel generalizing r w with
  | zero => rfl
  | succ fuel ih =>
    obtain ⟨r', w', hmove, h'⟩ := demodMove_of_hangs h
    rw [demodRun_succ_of_more hmove, ih h']

/-- No policy rejects a pair of two different words against itself; TRUST and SIGN reject none (R100–R103, R108). -/
theorem singleManchester_self {c d : W16} (h : singleManchester quality c d c d = .badSample) :
    quality ∉ ([0, 5] : List Byte) ∧ c = d := by
  have hstrict : c ≠ d → ∃ x, decideStrict c d c d = .bit x := fun hne => by
    by_cases hlt : d < c
    · exact ⟨true, decideStrict_eq_true_iff.2 ⟨hlt, .inl ⟨hlt, hlt, hlt⟩⟩⟩
    · have hgt : c < d := BitVec.lt_of_le_ne (BitVec.not_lt.1 hlt) hne
      exact ⟨false, decideStrict_eq_false_iff.2 ⟨hlt, .inr ⟨hlt, hgt, hgt⟩⟩⟩
  by_cases h0 : quality = 0
  · subst h0
    cases h
  by_cases h5 : quality = 5
  · subst h5
    obtain ⟨hlt, -, hgt⟩ | ⟨hn, -, hlt⟩ := decideSign_eq_badSample_iff.1 h
    · exact absurd hgt (BitVec.lt_asymm hlt)
    · exact absurd hlt hn
  refine ⟨List.not_mem_cons_of_ne_of_not_mem h0 (mt List.mem_singleton.1 h5), by_contra fun hne => ?_⟩
  obtain ⟨x, hx⟩ := hstrict hne
  by_cases h10 : quality = 10
  · subst h10
    rw [singleManchester_ten, decideConfirm_of_decideStrict hx] at h
    cases h
  · rw [singleManchester_other h0 h5 h10, hx] at h
    cases h

/-- What R108 needs of the settings and of the words ws for a hang. -/
def MayHang (p : Params) (quality : Byte) (allowed : Nat) (ws : List W16) : Prop :=
  p.tailDecode = true ∧ allowed = 0 ∧ quality ∉ ([0, 5] : List Byte) ∧ p.markBad ∈ ws

/-- The word that the hang rejects is MARK_BADSAMPLE, and lies ahead of i (R108). -/
theorem mayHang_of_hangs (h : DemodHangs p quality allowed r w) : MayHang p quality allowed (w.drop (r.i + 1)) := by
  obtain ⟨htail, hl, -⟩ := inTail_iff.1 h.tail
  obtain ⟨hq, hbad⟩ := singleManchester_self h.rejected
  refine ⟨htail, h.allowed, hq, ?_⟩
  rw [hbad, List.getD_eq_getElem _ _ hl, List.drop_eq_getElem_cons hl]
  exact List.mem_cons_self

/-- With more than `movesLeft` moves a pass ends from any of its states, or it never does, as R108 describes. -/
theorem demodRun_ends_or_hangs {fuel : Nat} (hr : r.Ok) (hf : movesLeft p r w < fuel) :
    (∃ w', demodRun p quality allowed fuel r w = some w')
      ∨ MayHang p quality allowed (w.drop (r.i + 1)) ∧ ∀ n, demodRun p quality allowed n r w = none := by
  induction fuel generalizing r w with
  | zero => exact absurd hf (Nat.not_lt_zero _)
  | succ fuel ih =>
    obtain hprog | hhang := demodMove_progress (p := p) (quality := quality) (allowed := allowed) (w := w) hr
    · cases hmove : demodMove p quality allowed r w with
      | done u => exact .inl ⟨u, demodRun_succ_of_done hmove fuel⟩
      | more r' w' =>
        rw [hmove] at hprog
        obtain ⟨hok, hadv, hahead, hmoves⟩ := hprog
        obtain ⟨u, hu⟩ | ⟨⟨htail, hallowed, hq, hbad⟩, hnone⟩ := ih hok (Nat.lt_of_lt_of_le hmoves (Nat.le_of_lt_succ hf))
        · exact .inl ⟨u, (demodRun_succ_of_more hmove fuel).trans hu⟩
        · rw [hahead] at hbad
          refine .inr ⟨⟨htail, hallowed, hq, List.drop_subset_drop_left w (Nat.succ_le_succ hadv) hbad⟩, fun n => ?_⟩
          cases n with
          | zero => rfl
          | succ n => rw [demodRun_succ_of_more hmove, hnone]
    · exact .inr ⟨mayHang_of_hangs hhang, demodRun_of_hangs hhang⟩

end

/-- `demodFuel` is enough for a pass that ends. -/
theorem movesLeft_init_lt (p : Params) (w : List W16) : movesLeft p .init w < demodFuel w.length := by
  have hi : DemodRegs.init.i = 0 := rfl
  rw [demodFuel]
  by_cases hl : DemodRegs.init.i + 17 ≤ w.length
  · rw [movesLeft_search rfl hl]
    omega
  · have hle : movesHere p .init w ≤ 6 := movesHere_search_le rfl
    rw [movesLeft]
    omega

/-- A pass returns its words, or it is one of R108's that never end. -/
theorem demodPass_ends_or_hangs (p : Params) (quality : Byte) (allowed : Nat) (w : List W16) :
    (∃ w', demodPass p quality allowed w = some w')
      ∨ MayHang p quality allowed w ∧ ∀ fuel, demodRun p quality allowed fuel .init w = none := by
  obtain h | ⟨⟨htail, hallowed, hq, hbad⟩, hnone⟩ :=
    demodRun_ends_or_hangs (quality := quality) (allowed := allowed) (demodRegs_ok_search rfl) (movesLeft_init_lt p w)
  · exact .inl h
  · exact .inr ⟨⟨htail, hallowed, hq, List.mem_of_mem_drop hbad⟩, hnone⟩

/-- Settles O26: the words of a pass stand in the block, and R108's conditions name every pass that never ends. -/
theorem demodEnds : Obligations.DemodEnds := by
  unfold Obligations.DemodEnds
  intro s n hp _ hb _
  have hcount : s.wordCount = n / 2 := by rw [State.wordCount, hb, Option.getD_some]
  refine ⟨fun w hw => ?_, fun hends => ?_⟩
  · have hlen : w.length = n / 2 := by rw [demodRun_length hw, words_length, hcount]
    refine ⟨hlen, s.mem.store (bytesOfWords w), exec_feDemod_of_pass hp hw, fun k hk => ?_, fun a ha => ?_⟩
    · rw [memory_word_store, if_pos (by omega)]
    · rw [memory_read_store, bytesOfWords_length, if_neg (by omega)]
  · obtain h | ⟨⟨htail, hallowed, hq, hbad⟩, -⟩ :=
      demodPass_ends_or_hangs s.params (cfgQuality s.cfg) (cfgAllowedErrors s.cfg) s.words
    · exact h
    · obtain h | h | h | h := hends
      · rw [htail] at h
        cases h
      · exact absurd hallowed h
      · exact absurd h hq
      · exact absurd hbad h

theorem eq_feDemod_of_enabled {s : State} {i : Instr} (hp : s.fePhase = .demod) (h : StepEnabled i s) (ha : agentOf i = .fe) :
    i = .feDemod := by
  cases h with
  | feDemod _ _ => rfl
  | deTake _ _ _ | deDecode _ _ | deEmit _ _ _ => cases ha
  | feTake _ h _ _ | feMag _ h | feFrame _ h | feEmit _ h _ | feHalt _ h _ _ =>
    rw [hp] at h
    cases h

/-- Settles O28: a pass without a result has none at any number of moves, and FE has no other step in FE_DEMOD. -/
theorem hangIsReal : Obligations.HangIsReal := by
  unfold Obligations.HangIsReal
  refine ⟨fun p quality allowed w hnone => ?_, fun p quality allowed fuel more r w w' => demodRun_add more,
    fun s hp hnone => ⟨?_, fun i => eq_feDemod_of_enabled hp⟩⟩
  · obtain ⟨w', h⟩ | ⟨-, h⟩ := demodPass_ends_or_hangs p quality allowed w
    · rw [hnone] at h
      cases h
    · exact h
  · have hs : feDemod s = s := by rw [feDemod, hnone]
    exact whenEnabled_next.2 (by rw [hs, ite_self])

end Sys2Proof.Machine
end

section
/-! The framer's candidates and its scan (42_framer.md): what a candidate has read, where it ends, and where the scan goes on
(R113–R119). -/

namespace Sys2Proof.Machine

/-- Settles O30: all of the frame's bits, or all but a last one that is 0, are read as the frame. -/
theorem framerRecovers : Obligations.FramerRecovers := by
  unfold Obligations.FramerRecovers
  intro skip quality f before after missing _ hf h0 hother hmissing hz
  refine framePass_append skip quality hf h0 (fun x hx => hother x (List.mem_append_left _ hx))
    (fun x hx => hother x (List.mem_append_right _ hx)) (Nat.sub_le _ _) (by omega) fun hlt => ?_
  have h1 : missing = 1 := by omega
  exact h1 ▸ hz h1

/-! ### Bits and bytes (R69, R114) -/

theorem frameLen_le_bits (l : FrameLen) : 56 ≤ l.bits := by cases l <;> decide

theorem bitWord_injective : Function.Injective bitWord := by decide

/-- A word at most 1 is the word of a bit. -/
theorem exists_bitWord {x : W16} (h : isBitWord x = true) : ∃ b, x = bitWord b := by
  have hle : x.toNat ≤ 1 := of_decide_eq_true h
  obtain h0 | h1 := Nat.le_one_iff_eq_zero_or_eq_one.1 hle
  · exact ⟨false, BitVec.eq_of_toNat_eq h0⟩
  · exact ⟨true, BitVec.eq_of_toNat_eq h1⟩

/-- Byte 0 is 0 exactly where the first eight bits are (R116). -/
theorem byte0_eq_zero_iff (m : List Byte) : m.getD 0 0 = 0 ↔ ∀ k, k < 8 → msgBit m k = false := by
  refine ⟨fun h k hk => ?_, fun h => BitVec.eq_of_getLsbD_eq fun i hi => ?_⟩
  · rw [msgBit, Nat.div_eq_of_lt hk, h]
    exact BitVec.getLsbD_zero
  · have hb := h (7 - i) (by omega)
    rw [msgBit, show (7 - i) / 8 = 0 by omega, show 7 - (7 - i) % 8 = i by omega] at hb
    exact hb.trans BitVec.getLsbD_zero.symm

/-! ### The turns of a candidate (R113–R117) -/

/-- The registers after one more bit, which is the word x. -/
def FrameRegs.read (r : FrameRegs) (x : W16) : FrameRegs :=
  let acc := accumulate r.acc r.cnt x
  { r with acc := acc, q := r.q + 1, cnt := r.cnt + 1,
           flen := if r.cnt = 7 then FrameLen.ofByte0 (acc.getD 0 0) else r.flen }

/-- There is a further bit for the candidate. -/
def FrameRegs.Continues (w : List W16) (r : FrameRegs) : Prop :=
  r.q < w.length ∧ isBitWord (w.getD r.q 0) = true ∧ r.cnt < r.flen.bits

/-- The word at q is the eighth bit of a byte 0 that is 0 (R116). -/
def FrameRegs.Abandons (w : List W16) (r : FrameRegs) : Prop :=
  r.cnt = 7 ∧ (r.read (w.getD r.q 0)).acc.getD 0 0 = 0

theorem candidateFrom_of_ended {w : List W16} {r : FrameRegs} (h : ¬ r.Continues w) (fuel : Nat) : candidateFrom w fuel r = r := by
  cases fuel with
  | zero => rfl
  | succ fuel => exact if_neg h

theorem candidateFrom_of_abandons {w : List W16} {r : FrameRegs} (h : r.Continues w) (hz : r.Abandons w) (fuel : Nat) :
    candidateFrom w (fuel + 1) r = { r with acc := (r.read (w.getD r.q 0)).acc, abandoned := true } :=
  (if_pos h).trans (if_pos hz)

theorem candidateFrom_of_read {w : List W16} {r : FrameRegs} (h : r.Continues w) (hz : ¬ r.Abandons w) (fuel : Nat) :
    candidateFrom w (fuel + 1) r = candidateFrom w fuel (r.read (w.getD r.q 0)) :=
  (if_pos h).trans (if_neg hz)

/-- The candidate from p on has read its cnt words, which are the first cnt bits of acc; no later bit of acc is set. -/
structure FrameRegs.Reads (w : List W16) (p : Nat) (r : FrameRegs) : Prop where
  kept : r.abandoned = false
  q_eq : r.q = p + r.cnt
  cnt_le : r.cnt ≤ r.flen.bits
  acc_length : r.acc.length = 14
  word : ∀ k, k < r.cnt → w[p + k]? = some (bitWord (msgBit r.acc k))
  clear : ∀ k, r.cnt ≤ k → msgBit r.acc k = false

theorem init_reads (w : List W16) (p : Nat) : (FrameRegs.init p).Reads w p where
  kept := rfl
  q_eq := rfl
  cnt_le := Nat.zero_le _
  acc_length := rfl
  word _ hk := absurd hk (Nat.not_lt_zero _)
  clear k _ := msgBit_prefixBytes [] (Nat.zero_le 112) k

/-- One more bit of the candidate is one more word it has read (R115). -/
theorem FrameRegs.Reads.read {w : List W16} {p : Nat} {r : FrameRegs} (h : r.Reads w p) (hc : r.Continues w) :
    (r.read (w.getD r.q 0)).Reads w p := by
  obtain ⟨hq, hbit, hcnt⟩ := hc
  obtain ⟨b, hb⟩ := exists_bitWord hbit
  have hword : w[p + r.cnt]? = some (bitWord b) := by
    rw [← h.q_eq, ← hb, List.getD_eq_getElem _ _ hq, List.getElem?_eq_getElem hq]
  have hacc (k : Nat) : msgBit (r.read (bitWord b)).acc k = (msgBit r.acc k || (decide (k = r.cnt) && b)) := by
    have h112 := frameLen_bits_le r.flen
    exact msgBit_accumulate (by rw [h.acc_length]; omega) b k
  rw [hb]
  refine ⟨h.kept, congrArg (· + 1) h.q_eq, ?_, (accumulate_length _ _ _).trans h.acc_length, fun k hk => ?_, fun k hk => ?_⟩
  · by_cases h7 : r.cnt = 7
    · exact Nat.le_trans (show r.cnt + 1 ≤ 56 by omega) (frameLen_le_bits _)
    · simpa [FrameRegs.read, h7] using hcnt
  · obtain hk | rfl := Nat.lt_succ_iff_lt_or_eq.1 hk
    · simp [hacc, h.word k hk, Nat.ne_of_lt hk]
    · simp [hacc, h.clear _ (Nat.le_refl _), hword]
  · have hk : r.cnt < k := hk
    simp [hacc, h.clear k (Nat.le_of_lt hk), Nat.ne_of_gt hk]

/-! ### Where a candidate ends (R116, R117) -/

/-- A candidate from p on ends abandoned at its eighth word, or with the bits it has read. -/
inductive CandidateEnd (w : List W16) (p : Nat) (r : FrameRegs) : Prop
  | abandoned (ha : r.abandoned = true) (hq : r.q = p + 7) (hz : ∀ k, k < 8 → w[p + k]? = some 0)
  | ended (hr : r.Reads w p) (hend : ¬ r.Continues w)

/-- A candidate takes at most 112 bits, so it ends before its fuel does. -/
theorem candidateFrom_end {w : List W16} {p fuel : Nat} {r : FrameRegs} (h : r.Reads w p) (hf : 112 < fuel + r.cnt) :
    CandidateEnd w p (candidateFrom w fuel r) := by
  induction fuel generalizing r with
  | zero =>
    have h112 := h.cnt_le.trans (frameLen_bits_le r.flen)
    omega
  | succ fuel ih =>
    by_cases hc : r.Continues w
    · by_cases hz : r.Abandons w
      · rw [candidateFrom_of_abandons hc hz]
        obtain ⟨h7, hz⟩ := hz
        refine .abandoned rfl (h7 ▸ h.q_eq) fun k hk => ?_
        rw [(h.read hc).word k (show k < r.cnt + 1 by omega), (byte0_eq_zero_iff _).1 hz k hk]
        rfl
      · rw [candidateFrom_of_read hc hz]
        exact ih (h.read hc) (show 112 < fuel + (r.cnt + 1) by omega)
    · rw [candidateFrom_of_ended hc]
      exact .ended h hc

theorem candidate_end (w : List W16) (p : Nat) : CandidateEnd w p (candidate w p) :=
  candidateFrom_end (init_reads w p) (Nat.lt_succ_self 112)

theorem candidate_reads {w : List W16} {p : Nat} (h : (candidate w p).abandoned = false) :
    (candidate w p).Reads w p ∧ ¬ (candidate w p).Continues w := by
  obtain ⟨ha, -, -⟩ | ⟨hr, hend⟩ := candidate_end w p
  · rw [h] at ha
    cases ha
  · exact ⟨hr, hend⟩

/-- A candidate is abandoned exactly where its first eight words are 0 (R116). -/
theorem candidate_abandoned_iff (w : List W16) (p : Nat) :
    (candidate w p).abandoned = true ↔ ∀ k, k < 8 → w[p + k]? = some 0 := by
  obtain ⟨ha, -, hz⟩ | ⟨hr, hend⟩ := candidate_end w p
  · exact iff_of_true ha hz
  · refine iff_of_false (ne_true_of_eq_false hr.kept) fun hz => ?_
    have h56 := frameLen_le_bits (candidate w p).flen
    obtain h8 | h8 := Nat.lt_or_ge (candidate w p).cnt 8
    · have hq := hr.q_eq ▸ hz _ h8
      obtain ⟨hlt, -⟩ := List.getElem?_eq_some_iff.1 hq
      exact hend ⟨hlt, by rw [List.getD_eq_getElem?_getD, hq]; rfl, by omega⟩
    · refine candidateFrom_byte0 w 113 (fun h0 => absurd h0 (by decide : ¬ 8 ≤ 0)) hr.kept h8
        ((byte0_eq_zero_iff _).2 fun k hk => bitWord_injective ?_)
      exact Option.some.inj ((hr.word k (by omega)).symm.trans (hz k hk))

/-- A candidate that starts at a bit moves the scan on (R119). -/
theorem candidate_q_gt {w : List W16} {p : Nat} (hp : p < w.length) (hb : isBitWord (w.getD p 0) = true) :
    p < (candidate w p).q := by
  obtain ⟨-, hq, -⟩ | ⟨hr, hend⟩ := candidate_end w p
  · omega
  · by_contra hle
    have h56 := frameLen_le_bits (candidate w p).flen
    have hq := hr.q_eq
    have hqp : (candidate w p).q = p := by omega
    exact hend ⟨by omega, hqp.symm ▸ hb, by omega⟩

/-- An accepted candidate has read all of its bits but one at most (R118). -/
theorem candidate_reads_of_accepted {w : List W16} {p : Nat} (h : (candidate w p).accepted = true) :
    (candidate w p).Reads w p ∧ (candidate w p).flen.bits ≤ (candidate w p).cnt + 1 := by
  simp only [FrameRegs.accepted, Bool.and_eq_true, Bool.not_eq_true', decide_eq_true_eq] at h
  exact ⟨(candidate_reads h.1).1, h.2⟩

/-! ### The turns of a scan (R113, R119) -/

/-- What the candidate r gives, before what `later` words give (R118–R122). -/
def FrameRegs.outputBefore (quality : Byte) (r : FrameRegs) (later : List RawFrame × Nat) : List RawFrame × Nat :=
  if r.accepted then
    match makeFrame quality r.toFrame with
    | some f => (f :: later.1, later.2)
    | none => (later.1, later.2 + 1)
  else later

theorem framePassFrom_of_bit (skip : Nat) (quality : Byte) {w : List W16} (fuel : Nat) {p : Nat} (hp : p < w.length)
    (hb : isBitWord (w.getD p 0) = true) :
    framePassFrom skip quality w (fuel + 1) p =
      (candidate w p).outputBefore quality (framePassFrom skip quality w fuel ((candidate w p).q + skip)) :=
  (if_pos hp).trans (if_pos hb)

theorem framePassFrom_of_other (skip : Nat) (quality : Byte) {w : List W16} (fuel : Nat) {p : Nat} (hp : p < w.length)
    (hb : ¬ isBitWord (w.getD p 0) = true) :
    framePassFrom skip quality w (fuel + 1) p = framePassFrom skip quality w fuel (p + 1) :=
  (if_pos hp).trans (if_neg hb)

theorem framePassFrom_of_end (skip : Nat) (quality : Byte) {w : List W16} (fuel : Nat) {p : Nat} (hp : ¬ p < w.length) :
    framePassFrom skip quality w fuel p = ([], 0) := by
  cases fuel with
  | zero => rfl
  | succ fuel => exact if_neg hp

/-- Every turn moves on, so the scan does not depend on its fuel where that is more than the words left (R119). -/
theorem framePassFrom_fuel (skip : Nat) (quality : Byte) {w : List W16} {fuel fuel' p : Nat} (h : w.length < fuel + p)
    (h' : w.length < fuel' + p) : framePassFrom skip quality w fuel p = framePassFrom skip quality w fuel' p := by
  by_cases hp : p < w.length
  · induction fuel generalizing p fuel' with
    | zero => omega
    | succ fuel ih =>
      obtain ⟨fuel', rfl⟩ := Nat.exists_eq_add_one_of_ne_zero (show fuel' ≠ 0 by omega)
      have hnext {p' : Nat} (hp' : p < p') : framePassFrom skip quality w fuel p' = framePassFrom skip quality w fuel' p' := by
        by_cases hl : p' < w.length
        · exact ih (by omega) (by omega) hl
        · rw [framePassFrom_of_end _ _ _ hl, framePassFrom_of_end _ _ _ hl]
      by_cases hb : isBitWord (w.getD p 0) = true
      · rw [framePassFrom_of_bit _ _ _ hp hb, framePassFrom_of_bit _ _ _ hp hb,
          hnext (Nat.lt_add_right skip (candidate_q_gt hp hb))]
      · rw [framePassFrom_of_other _ _ _ hp hb, framePassFrom_of_other _ _ _ hp hb, hnext (Nat.lt_succ_self p)]
  · rw [framePassFrom_of_end _ _ _ hp, framePassFrom_of_end _ _ _ hp]

/-! ### The scan from a position on is the scan of the words from there on -/

/-- The registers of the same candidate in a block with p more words before it. -/
def FrameRegs.shift (p : Nat) (r : FrameRegs) : FrameRegs := { r with q := p + r.q }

theorem getD_add_eq_drop (w : List W16) (p d : Nat) : w.getD (p + d) 0 = (w.drop p).getD d 0 := by
  rw [List.getD_eq_getElem?_getD, List.getD_eq_getElem?_getD, List.getElem?_drop]

theorem add_lt_length_iff (w : List W16) (p d : Nat) : p + d < w.length ↔ d < (w.drop p).length := by
  rw [List.length_drop]
  omega

theorem continues_shift (w : List W16) (p : Nat) (r : FrameRegs) : (r.shift p).Continues w ↔ r.Continues (w.drop p) := by
  rw [FrameRegs.Continues, FrameRegs.Continues, ← getD_add_eq_drop, ← add_lt_length_iff]
  rfl

theorem candidateFrom_shift (w : List W16) (p fuel : Nat) (r : FrameRegs) :
    candidateFrom w fuel (r.shift p) = (candidateFrom (w.drop p) fuel r).shift p := by
  induction fuel generalizing r with
  | zero => rfl
  | succ fuel ih =>
    have hx : w.getD (r.shift p).q 0 = (w.drop p).getD r.q 0 := getD_add_eq_drop w p r.q
    have hzero : (r.shift p).Abandons w ↔ r.Abandons (w.drop p) := by
      rw [FrameRegs.Abandons, hx]
      rfl
    by_cases hc : r.Continues (w.drop p)
    · have hc' := (continues_shift w p r).2 hc
      by_cases hz : r.Abandons (w.drop p)
      · rw [candidateFrom_of_abandons hc hz, candidateFrom_of_abandons hc' (hzero.2 hz), hx]
        rfl
      · rw [candidateFrom_of_read hc hz, candidateFrom_of_read hc' (mt hzero.1 hz), hx, ← ih]
        rfl
    · rw [candidateFrom_of_ended hc, candidateFrom_of_ended (mt (continues_shift w p r).1 hc)]

theorem candidate_add (w : List W16) (p d : Nat) : candidate w (p + d) = (candidate (w.drop p) d).shift p :=
  candidateFrom_shift w p 113 (FrameRegs.init d)

theorem framePassFrom_add (skip : Nat) (quality : Byte) (w : List W16) (p fuel d : Nat) :
    framePassFrom skip quality w fuel (p + d) = framePassFrom skip quality (w.drop p) fuel d := by
  induction fuel generalizing d with
  | zero => rfl
  | succ fuel ih =>
    by_cases hd : d < (w.drop p).length
    · have hd' := (add_lt_length_iff w p d).2 hd
      by_cases hb : isBitWord ((w.drop p).getD d 0) = true
      · rw [framePassFrom_of_bit _ _ _ hd hb, framePassFrom_of_bit _ _ _ hd' (getD_add_eq_drop w p d ▸ hb), candidate_add, ← ih,
          ← Nat.add_assoc]
        rfl
      · rw [framePassFrom_of_other _ _ _ hd hb, framePassFrom_of_other _ _ _ hd' (getD_add_eq_drop w p d ▸ hb)]
        exact ih (d + 1)
    · rw [framePassFrom_of_end _ _ _ hd, framePassFrom_of_end _ _ _ (mt (add_lt_length_iff w p d).1 hd)]

theorem framePassFrom_eq_framePass (skip : Nat) (quality : Byte) {w : List W16} {fuel p : Nat} (h : w.length < fuel + p) :
    framePassFrom skip quality w fuel p = framePass skip quality (w.drop p) := by
  rw [framePass, ← framePassFrom_add, Nat.add_zero]
  exact framePassFrom_fuel skip quality h (by rw [List.length_drop]; omega)

/-- After words that are no bits, a block gives what the candidate at its first bit gives, then what the words past it give. -/
theorem framePass_first (skip : Nat) (quality : Byte) {before rest : List W16} (hbefore : ∀ x ∈ before, 1 < x) (hne : rest ≠ [])
    (hbit : isBitWord (rest.getD 0 0) = true) :
    framePass skip quality (before ++ rest) =
      (candidate rest 0).outputBefore quality (framePass skip quality (rest.drop ((candidate rest 0).q + skip))) := by
  have hpos := List.length_pos_of_ne_nil hne
  have hq := candidate_q_gt hpos hbit
  have hlen : (before ++ rest).length = before.length + rest.length := List.length_append
  have hother : ∀ k, 0 ≤ k → k < 0 + before.length → 1 < (before ++ rest).getD k 0 := fun k _ hk => by
    rw [Nat.zero_add] at hk
    rw [List.getD_append _ _ _ _ hk, List.getD_eq_getElem _ _ hk]
    exact hbefore _ (List.getElem_mem hk)
  calc framePass skip quality (before ++ rest)
    _ = framePassFrom skip quality (before ++ rest) (rest.length + 1 + before.length) 0 :=
      framePassFrom_fuel skip quality (by omega) (by omega)
    _ = framePassFrom skip quality (before ++ rest) (rest.length + 1) before.length := by
      rw [framePassFrom_skip skip quality _ 0 (by omega) hother, Nat.zero_add]
    _ = framePassFrom skip quality rest (rest.length + 1) 0 := by
      rw [← Nat.add_zero before.length, framePassFrom_add, Nat.add_zero, List.drop_left]
    _ = _ := by rw [framePassFrom_of_bit _ _ _ hpos hbit, framePassFrom_eq_framePass skip quality (by omega)]

/-! ### Runs without a frame (R116, R118, R123) -/

/-- Discarded candidates give nothing and are not counted (R118, R208). -/
theorem framePass_of_none_accepted (skip : Nat) (quality : Byte) {w : List W16} (h : ∀ p, (candidate w p).accepted ≠ true) :
    framePass skip quality w = ([], 0) := by
  have hfrom (fuel p : Nat) : framePassFrom skip quality w fuel p = ([], 0) := by
    induction fuel generalizing p with
    | zero => rfl
    | succ fuel ih =>
      by_cases hp : p < w.length
      · by_cases hb : isBitWord (w.getD p 0) = true
        · rw [framePassFrom_of_bit _ _ _ hp hb, ih]
          exact if_neg (h p)
        · rw [framePassFrom_of_other _ _ _ hp hb, ih]
      · exact framePassFrom_of_end _ _ _ hp
  exact hfrom _ 0

theorem FrameRegs.Reads.lt_length {w : List W16} {p k : Nat} {r : FrameRegs} (h : r.Reads w p) (hk : k < r.cnt) :
    p + k < w.length :=
  (List.getElem?_eq_some_iff.1 (h.word k hk)).1

theorem not_accepted_of_short {w : List W16} (hl : w.length < 8) (p : Nat) : (candidate w p).accepted ≠ true := fun ha => by
  obtain ⟨hr, hbits⟩ := candidate_reads_of_accepted ha
  have h56 := frameLen_le_bits (candidate w p).flen
  have hlt := hr.lt_length (k := 7) (by omega)
  omega

/-- A candidate of zeros is abandoned or ends before its eighth word. -/
theorem not_accepted_of_zeros {w : List W16} (hz : ∀ x ∈ w, x = 0) (p : Nat) : (candidate w p).accepted ≠ true := fun ha => by
  obtain ⟨hr, hbits⟩ := candidate_reads_of_accepted ha
  have h56 := frameLen_le_bits (candidate w p).flen
  refine ne_true_of_eq_false hr.kept ((candidate_abandoned_iff w p).2 fun k hk => ?_)
  have hw := hr.word k (by omega)
  exact hz _ (List.mem_of_getElem? hw) ▸ hw

/-- From bit 8 on the intended length is that of the first word (R73, R117). -/
theorem candidate_bits {w : List W16} {p : Nat} (hr : (candidate w p).Reads w p) (h8 : 8 ≤ (candidate w p).cnt) {b : Bool}
    (hb : w[p]? = some (bitWord b)) : (candidate w p).flen.bits = if b = true then 112 else 56 := by
  obtain ⟨-, -, hprobe⟩ := candidate_ok w p
  have hbit : msgBit (candidate w p).acc 0 = b := bitWord_injective (Option.some.inj ((hr.word 0 (by omega)).symm.trans hb))
  have hflen : (candidate w p).flen = if msgBit (candidate w p).acc 0 = true then .long else .short := hprobe h8
  rw [hflen, hbit]
  cases b <;> rfl

theorem bitWords_getElem? {bits : List Bool} {k : Nat} (hk : k < bits.length) :
    (bits.map bitWord)[k]? = some (bitWord (bits.getD k false)) := by
  simp [hk]

/-- A candidate over a run that is too short misses more than one bit of its intended length. -/
theorem candidate_misses_bits {bits : List Bool} (hr : (candidate (bits.map bitWord) 0).Reads (bits.map bitWord) 0)
    (hshort : bits.length + 1 < if bits.getD 0 false = true then 112 else 56) :
    (candidate (bits.map bitWord) 0).cnt + 1 < (candidate (bits.map bitWord) 0).flen.bits := by
  by_contra hbits
  have h56 := frameLen_le_bits (candidate (bits.map bitWord) 0).flen
  have hlt := hr.lt_length (k := (candidate (bits.map bitWord) 0).cnt - 1) (by omega)
  rw [List.length_map] at hlt
  have hflen := candidate_bits hr (by omega) (bitWords_getElem? (show 0 < bits.length by omega))
  omega

/-- A run of bits that is shorter than its intended length minus one is one candidate, and is discarded (R118). -/
theorem framePass_of_discarded (skip : Nat) (quality : Byte) {bits : List Bool} (h8 : 8 ≤ bits.length)
    (hone : ∃ k, k < 8 ∧ bits.getD k false = true)
    (hshort : bits.length + 1 < if bits.getD 0 false = true then 112 else 56) :
    framePass skip quality (bits.map bitWord) = ([], 0) := by
  have hne : bits.map bitWord ≠ [] := List.ne_nil_of_length_pos (by rw [List.length_map]; omega)
  have hbit {k : Nat} (hk : k < bits.length) : isBitWord ((bits.map bitWord).getD k 0) = true := by
    rw [List.getD_eq_getElem?_getD, bitWords_getElem? hk]
    exact isBitWord_bitWord _
  have hkept : (candidate (bits.map bitWord) 0).abandoned = false := by
    refine eq_false_of_ne_true fun ha => ?_
    obtain ⟨k, hk, hone⟩ := hone
    have hw := (candidate_abandoned_iff _ 0).1 ha k hk
    rw [Nat.zero_add, bitWords_getElem? (by omega), hone] at hw
    cases hw
  obtain ⟨hr, hend⟩ := candidate_reads hkept
  have hfew := candidate_misses_bits hr hshort
  have hall : bits.length ≤ (candidate (bits.map bitWord) 0).q := by
    by_contra hq
    exact hend ⟨by rw [List.length_map]; omega, hbit (by omega), by omega⟩
  have hfirst := framePass_first skip quality (before := []) nofun hne (hbit (by omega))
  rw [List.drop_eq_nil_of_le (by rw [List.length_map]; omega)] at hfirst
  exact hfirst.trans (if_neg fun ha => Nat.not_le_of_lt hfew (candidate_reads_of_accepted ha).2)

/-- Settles O33: no candidate of a short or all-zero run is accepted, and a scan is its first candidate and the scan past it. -/
theorem shortRuns : Obligations.ShortRuns := by
  unfold Obligations.ShortRuns
  refine fun skip quality _ => ⟨fun bits => ⟨fun hl => ?_, fun hz => ?_, framePass_of_discarded skip quality⟩,
    fun before rest hbefore hne hbit => ⟨?_, fun ha => ?_, fun ha => ?_, ?_⟩⟩
  · exact framePass_of_none_accepted skip quality (not_accepted_of_short (by rwa [List.length_map]))
  · refine framePass_of_none_accepted skip quality (not_accepted_of_zeros fun x hx => ?_)
    obtain ⟨b, hb, rfl⟩ := List.mem_map.1 hx
    rw [hz b hb]
    rfl
  · simpa only [Nat.zero_add] using candidate_abandoned_iff rest 0
  · obtain ⟨-, hq, -⟩ | ⟨hr, -⟩ := candidate_end rest 0
    · exact hq
    · exact absurd ha (ne_true_of_eq_false hr.kept)
  · obtain ⟨hr, hend⟩ := candidate_reads ha
    have hq : (candidate rest 0).q = (candidate rest 0).cnt := hr.q_eq.trans (Nat.zero_add _)
    refine ⟨hq, hr.cnt_le, fun k hk => ?_, fun hlt => ?_⟩
    · have hw := hr.word k (hq ▸ hk)
      rw [Nat.zero_add] at hw
      rw [List.getD_eq_getElem?_getD, hw]
      exact of_decide_eq_true (isBitWord_bitWord _)
    · by_contra hmore
      obtain ⟨hcnt, hone⟩ := not_or.1 hmore
      exact hend ⟨hlt, isBitWord_iff.2 hone, Nat.lt_of_le_of_ne hr.cnt_le hcnt⟩
  · exact framePass_first skip quality hbefore hne (decide_eq_true hbit)

end Sys2Proof.Machine
end

section
/-! The queues and the steps that move units between stages (43_queues.md). -/

namespace Sys2Proof.Machine

variable {s : State}

/-! ### An enabled step has its effect -/

/-- A step whose test passes has its effect. -/
theorem whenEnabled_of {e : Bool} {f : State → State} (h : e = true) : whenEnabled e f s = .next (f s) := by
  rw [h, whenEnabled_true]

theorem exec_feTake (h : StepEnabled .feTake s) : exec .feTake s = .next (feTake s) :=
  whenEnabled_of (feTakeEnabled_iff.2 h)

theorem exec_feEmit (h : StepEnabled .feEmit s) : exec .feEmit s = .next (feEmit s) :=
  whenEnabled_of (feEmitEnabled_iff.2 h)

theorem exec_feHalt (h : StepEnabled .feHalt s) : exec .feHalt s = .next (feHalt s) :=
  whenEnabled_of (feHaltEnabled_iff.2 h)

theorem exec_deTake (h : StepEnabled .deTake s) : exec .deTake s = .next (deTake s) :=
  whenEnabled_of (deTakeEnabled_iff.2 h)

theorem exec_deEmit (h : StepEnabled .deEmit s) : exec .deEmit s = .next (deEmit s) :=
  whenEnabled_of (deEmitEnabled_iff.2 h)

/-! ### FE_TAKE (R129) -/

/-- FE_TAKE, in its phase and running, takes the head of IQ. -/
theorem exec_feTake_cons {x : List Byte} {q : List (List Byte)} (hp : s.fePhase = .idle) (hr : s.runState = .running)
    (hq : s.iq = x :: q) : exec .feTake s = .next (takeBlock x { s with iq := q }) := by
  rw [exec_feTake (.feTake s hp hr (hq ▸ List.cons_ne_nil x q)), feTake_cons hq]

/-- Settles O19: the checks of IQ's head exclude each other, and each outcome is its own clause; the stored block is what the buffer's
reads return. -/
theorem takeBlock_stops_discards_or_takes : Obligations.TakeBlock := by
  unfold Obligations.TakeBlock
  intro s x q hp hr hq
  rw [exec_feTake_cons hp hr hq]
  obtain ⟨rfl, he⟩ | ⟨hodd, he⟩ | ⟨hne, heven, hbig, he⟩ | ⟨hne, heven, hfits, he⟩ := takeBlock_cases x { s with iq := q } <;>
    rw [he]
  · exact ⟨fun _ => rfl, nofun, fun h => absurd rfl h, fun h => absurd rfl h⟩
  · have hne : x ≠ [] := fun h => by simp [h] at hodd
    exact ⟨fun h => absurd h hne, fun _ => rfl, fun _ heven => by omega, fun _ heven => by omega⟩
  · exact ⟨fun h => absurd h hne, fun hodd => by omega, fun _ _ _ => rfl, fun _ _ hfits => absurd hbig (Nat.not_lt_of_le hfits)⟩
  · exact ⟨fun h => absurd h hne, fun hodd => by omega, fun _ _ hbig => absurd hbig (Nat.not_lt_of_le hfits),
      fun _ _ _ => ⟨_, rfl, memory_read_store s.mem x⟩⟩

/-! ### FE_EMIT and FE_HALT (R130, R133) -/

theorem feEmit_nil (h : s.pending = []) :
    feEmit s = { s.count .blkDone 1 with fePhase := .idle, blkLen := none, mem := [] } := by
  simpa [h] using feEmit_cases s

theorem feEmit_cons {f : RawFrame} {fs : List RawFrame} (h : s.pending = f :: fs) :
    feEmit s = { s.count .frmOut 1 with fq := s.fq ++ [.frame f], pending := fs } := by
  simpa [h] using feEmit_cases s

/-- Settles O34: FE_EMIT by the shape of PENDING, and FE_HALT, each enabled by its clause's hypotheses. -/
theorem frontEndQueueSteps : Obligations.FrontEndQueueSteps := by
  unfold Obligations.FrontEndQueueSteps
  refine fun s => ⟨fun hp hnil => ?_, fun f fs hp hcons hroom => ?_, fun hp hr hroom => ?_⟩
  · rw [exec_feEmit (.feEmit s hp (.inl hnil)), feEmit_nil hnil]
    rfl
  · rw [exec_feEmit (.feEmit s hp (.inr hroom)), feEmit_cons hcons]
    rfl
  · rw [exec_feHalt (.feHalt s hp hr hroom)]
    rfl

/-! ### DE_TAKE and DE_EMIT (R134, R135) -/

theorem deTake_endMark {q : List FqItem} (h : s.fq = .endMark :: q) :
    deTake s = { s with fq := q, dePhase := .halted, runState := .halted } := by
  simpa [h] using deTake_cases (s := s)

theorem deTake_frame {f : RawFrame} {q : List FqItem} (h : s.fq = .frame f :: q) :
    deTake s = { s with fq := q, frame := some f, dePhase := .decode } := by
  simpa [h] using deTake_cases (s := s)

theorem deEmit_some {m : DecodedMessage} (h : s.msg = some m) :
    deEmit s = { s.count .msgOut 1 with oq := s.oq ++ [m], msg := none, dePhase := .idle } := by
  simpa [h] using deEmit_cases s

/-- Settles O35: DE_TAKE by the kind of FQ's head, and DE_EMIT of the record built, each enabled by its clause's hypotheses. -/
theorem decodeEngineQueueSteps : Obligations.DecodeEngineQueueSteps := by
  unfold Obligations.DecodeEngineQueueSteps
  refine fun s => ⟨fun q hp hend => ?_, fun f q hp hframe => ?_, fun m hp hm hroom => ?_⟩
  · rw [exec_deTake (.deTake s hp (hend ▸ List.cons_ne_nil _ q)), deTake_endMark hend]
  · rw [exec_deTake (.deTake s hp (hframe ▸ List.cons_ne_nil _ q)), deTake_frame hframe]
  · rw [exec_deEmit (.deEmit s hp hroom), deEmit_some hm]
    rfl

end Sys2Proof.Machine
end

section
/-! Correction (44_crc_correction.md): the weights by the procedure of R139, the syndrome of a message with flipped bits (R140), and what
becomes of a valid message with one, two or three bits flipped (R151). -/

namespace Sys2Proof.Machine

/-! ### The weights (R139) -/

/-- One turn on the 25-bit register, whose bit 24 is clear between turns. -/
theorem crcLoop_succ_cons (e : Nat) (r : W24) : crcLoop (e + 1) (.cons false r) = crcLoop e (.cons false (crcNext r)) := by
  have hshift : BitVec.cons false r <<< 1 = .cons (r.getLsbD 23) (r <<< 1) := by
    refine BitVec.eq_of_getLsbD_eq fun i hi => ?_
    rw [BitVec.getLsbD_shiftLeft, BitVec.getLsbD_cons, BitVec.getLsbD_cons, BitVec.getLsbD_shiftLeft]
    obtain rfl | hlt : i = 24 ∨ i < 24 := by omega
    · rfl
    · simp [hi, hlt, show i - 1 ≠ 24 by omega, Nat.ne_of_lt hlt]
  have hG : (0x1FFF409 : BitVec 25) = .cons true (0xFFF409 : W24) := by decide
  have hout : (BitVec.cons (r.getLsbD 23) (r <<< 1)).getLsbD 24 = r.getLsbD 23 := by rw [BitVec.getLsbD_cons, if_pos rfl]
  rw [crcLoop, hshift, hout, hG, crcNext]
  congr 1
  split
  next h => rw [BitVec.cons_xor_cons, h]; rfl
  next h => rw [Bool.eq_false_of_not_eq_true h]

theorem crcLoop_crcT (e k : Nat) : crcLoop e (.cons false (crcT k)) = .cons false (crcT (k + e)) := by
  induction e generalizing k with
  | zero => rfl
  | succ e ih => rw [crcLoop_succ_cons, show k + (e + 1) = k + 1 + e by omega]; exact ih (k + 1)

/-- The 24-bit remainder is what the procedure leaves in its 25-bit register. -/
theorem crcProcedure_eq_crcT (e : Nat) : crcProcedure e = crcT e := by
  have h : crcLoop e 1 = .cons false (crcT e) := (crcLoop_crcT e 0).trans (by rw [Nat.zero_add])
  rw [crcProcedure, h]
  exact BitVec.extractLsb'_cons

/-- Below the degree of G nothing is reduced. -/
theorem crcT_of_lt {e : Nat} (h : e < 24) : crcT e = 1#24 <<< e := by
  induction e with
  | zero => rfl
  | succ e ih =>
    have hlow : (1#24 <<< e).getLsbD 23 = false := by simp [show 23 - e ≠ 0 by omega]
    rw [crcT, ih (by omega), crcNext, hlow, BitVec.shiftLeft_add]
    rfl

theorem crcWeights_getD {n j0 : Nat} (h : j0 < n) : (crcWeights n).getD j0 0 = crcT (n - 1 - j0) := by
  simp [crcWeights_eq, h]

/-- Settles O36: the table holds the remainders T(n − 1 − j0), and these are the procedure's. -/
theorem weights : Obligations.Weights := by
  unfold Obligations.Weights
  refine ⟨fun n => ⟨crcWeights_length n, fun j0 hj => ?_⟩, fun j0 hj => ?_, fun e he => ?_⟩
  · rw [crcWeights_getD hj, crcProcedure_eq_crcT]
  · rw [crcWeights_getD hj, crcWeights_getD (by omega)]
    congr 1
    omega
  · rw [crcProcedure_eq_crcT, crcT_of_lt he]

/-! ### The checksum and the parity field (R140) -/

/-- The data bits' sum runs over the positions before the last 24. -/
theorem crc_eq_crcSum (n : Nat) (m : List Byte) :
    crc n m = crcSum m ((List.range' 0 (n - 24)).map fun j0 => crcT (n - 1 - j0)) 0 := by
  rw [crc, crcWeights_eq, ← List.map_take, List.take_range, Nat.min_eq_left (Nat.sub_le n 24), List.range_eq_range']

theorem crcSum_eq_weightSum (n : Nat) (m : List Byte) (k a : Nat) :
    crcSum m ((List.range' a k).map fun j0 => crcT (n - 1 - j0)) a = weightSum n ((List.range' a k).filter (msgBit m)) := by
  induction k generalizing a with
  | zero => rfl
  | succ k ih =>
    rw [List.range'_succ, List.map_cons, crcSum, ih, List.filter_cons]
    split
    · rfl
    · exact BitVec.zero_xor

/-- Three bytes side by side as a field of the message. -/
theorem msgBits_three_bytes (m : List Byte) (k : Nat) :
    msgBits m (8 * k + 1) (8 * k + 24) = (m.getD k 0 ++ m.getD (k + 1) 0 ++ m.getD (k + 2) 0 : W24).toNat := by
  have h2 : msgBits m (8 * k + 9) (8 * k + 16) = (m.getD (k + 1) 0).toNat := msgBits_byte m (k + 1)
  have h3 : msgBits m (8 * k + 17) (8 * k + 24) = (m.getD (k + 2) 0).toNat := msgBits_byte m (k + 2)
  rw [msgBits_split m (b := 8 * k + 16) (by omega) 8, msgBits_split m (b := 8 * k + 8) (by omega) 8, msgBits_byte m k, h2, h3,
    toNat_append_eq_add, toNat_append_eq_add]

/-- Bit i of three bytes side by side is a bit of the message, counted from the last (R7). -/
theorem three_bytes_getLsbD (m : List Byte) (k : Nat) {i : Nat} (hi : i < 24) :
    (m.getD k 0 ++ m.getD (k + 1) 0 ++ m.getD (k + 2) 0 : W24).getLsbD i = msgBit m (8 * k + 23 - i) := by
  rw [msgBit, BitVec.getLsbD_append, BitVec.getLsbD_append]
  split
  · rw [show (8 * k + 23 - i) / 8 = k + 2 by omega, show 7 - (8 * k + 23 - i) % 8 = i by omega]
  · split
    · rw [show (8 * k + 23 - i) / 8 = k + 1 by omega, show 7 - (8 * k + 23 - i) % 8 = i - 8 by omega]
    · rw [show (8 * k + 23 - i) / 8 = k by omega, show 7 - (8 * k + 23 - i) % 8 = i - 8 - 8 by omega]

/-- P is the message's last three bytes, of which byte k is the first. -/
theorem parity_eq (k : Nat) (m : List Byte) :
    parity (8 * k + 24) m = m.getD k 0 ++ m.getD (k + 1) 0 ++ m.getD (k + 2) 0 := by
  rw [parity, show (8 * k + 24) / 8 - 3 = k by omega, show (8 * k + 24) / 8 - 2 = k + 1 by omega,
    show (8 * k + 24) / 8 - 1 = k + 2 by omega]

theorem frameLen_bits_eq (l : FrameLen) : l.bits = 8 * l.bytes := by cases l <;> rfl

/-- A frame's bits before P are whole bytes. -/
theorem exists_frameLen_bits (l : FrameLen) : ∃ k, l.bits = 8 * k + 24 := by
  cases l
  · exact ⟨4, rfl⟩
  · exact ⟨11, rfl⟩

theorem parity_toNat (l : FrameLen) (m : List Byte) : (parity l.bits m).toNat = msgBits m (l.bits - 23) l.bits := by
  obtain ⟨k, hk⟩ := exists_frameLen_bits l
  rw [hk, parity_eq, ← msgBits_three_bytes]
  rfl

theorem parity_getLsbD (l : FrameLen) (m : List Byte) {i : Nat} (hi : i < 24) :
    (parity l.bits m).getLsbD i = msgBit m (l.bits - 1 - i) := by
  obtain ⟨k, hk⟩ := exists_frameLen_bits l
  rw [hk, parity_eq, three_bytes_getLsbD m k hi]
  rfl

/-! ### Flipped bits (R140, R149) -/

theorem flipBit_length (m : List Byte) (j0 : Nat) : (flipBit m j0).length = m.length := List.length_set

/-- A flip changes its own bit and no other. -/
theorem msgBit_flipBit {m : List Byte} {j0 : Nat} (h : j0 < 8 * m.length) (j : Nat) :
    msgBit (flipBit m j0) j = (msgBit m j ^^ decide (j = j0)) := by
  rw [flipBit, msgBit_set m (by omega)]
  split
  next hj =>
    have hone : (1#8 <<< (7 - j0 % 8)).getLsbD (7 - j % 8) = decide (j = j0) := by
      have hlt : 7 - j % 8 < 8 := by omega
      rw [Bool.eq_iff_iff]
      simp [hlt]
      omega
    rw [BitVec.getLsbD_xor, hone, msgBit, hj]
  next hj =>
    have hne : j ≠ j0 := by rintro rfl; exact hj rfl
    simp [hne]

/-- A bit flipped twice is as it was. -/
theorem flipBit_flipBit {m : List Byte} {j0 : Nat} (h : j0 < 8 * m.length) : flipBit (flipBit m j0) j0 = m := by
  refine msg_ext (by simp only [flipBit_length]) fun j _ => ?_
  rw [msgBit_flipBit (by rwa [flipBit_length]), msgBit_flipBit h, Bool.xor_assoc, Bool.xor_self, Bool.xor_false]

theorem flipBit_comm {m : List Byte} {j0 j1 : Nat} (h0 : j0 < 8 * m.length) (h1 : j1 < 8 * m.length) :
    flipBit (flipBit m j0) j1 = flipBit (flipBit m j1) j0 := by
  refine msg_ext (by simp only [flipBit_length]) fun j _ => ?_
  rw [msgBit_flipBit (by rwa [flipBit_length]), msgBit_flipBit h0, msgBit_flipBit (by rwa [flipBit_length]), msgBit_flipBit h1,
    Bool.xor_right_comm]

/-- A flip adds its position's weight to the sum over the positions it is one of. -/
theorem crcSum_flipBit {m : List Byte} {j0 : Nat} (h : j0 < 8 * m.length) (t : Nat → W24) (k a : Nat) :
    crcSum (flipBit m j0) ((List.range' a k).map t) a
      = crcSum m ((List.range' a k).map t) a ^^^ (if a ≤ j0 ∧ j0 < a + k then t j0 else 0) := by
  induction k generalizing a with
  | zero =>
    rw [if_neg (by omega)]
    exact BitVec.xor_zero.symm
  | succ k ih =>
    rw [List.range'_succ, List.map_cons, crcSum, crcSum, ih, msgBit_flipBit h]
    by_cases ha : a = j0
    · subst ha
      rw [if_neg (show ¬ (a + 1 ≤ a ∧ a < a + 1 + k) by omega), if_pos (show a ≤ a ∧ a < a + (k + 1) by omega),
        BitVec.ofNat_eq_ofNat, BitVec.xor_zero, BitVec.xor_comm _ (t a), ← BitVec.xor_assoc, BitVec.xor_comm (t a)]
      congr 1
      cases msgBit m a <;> simp
    · have hr : (a + 1 ≤ j0 ∧ j0 < a + 1 + k) ↔ (a ≤ j0 ∧ j0 < a + (k + 1)) := by omega
      simp only [decide_eq_false ha, Bool.xor_false, hr, BitVec.xor_assoc]

theorem crc_flipBit {n : Nat} {m : List Byte} {j0 : Nat} (h : j0 < 8 * m.length) :
    crc n (flipBit m j0) = crc n m ^^^ (if j0 < n - 24 then crcT (n - 1 - j0) else 0) := by
  rw [crc_eq_crcSum, crc_eq_crcSum, crcSum_flipBit h]
  simp only [Nat.zero_le, true_and, Nat.zero_add]

/-- P's positions weigh one bit each. -/
theorem parity_flipBit {l : FrameLen} {m : List Byte} {j0 : Nat} (h : j0 < 8 * m.length) (hl : j0 < l.bits) :
    parity l.bits (flipBit m j0) = parity l.bits m ^^^ (if j0 < l.bits - 24 then 0 else crcT (l.bits - 1 - j0)) := by
  obtain ⟨k, hk⟩ := exists_frameLen_bits l
  refine BitVec.eq_of_getLsbD_eq fun i hi => ?_
  rw [BitVec.getLsbD_xor, parity_getLsbD l _ hi, parity_getLsbD l _ hi, msgBit_flipBit h]
  congr 1
  split
  · rw [decide_eq_false (by omega)]
    simp
  · rw [crcT_of_lt (by omega), Bool.eq_iff_iff]
    simp [hi]
    omega

/-- The syndrome is linear in the message: a flip adds its position's weight. -/
theorem syndrome_flipBit {l : FrameLen} {m : List Byte} (hm : m.length = l.bytes) {j0 : Nat} (hj : j0 < l.bits) :
    syndrome l.bits (flipBit m j0) = syndrome l.bits m ^^^ crcT (l.bits - 1 - j0) := by
  have h : j0 < 8 * m.length := by rwa [hm, ← frameLen_bits_eq]
  rw [syndrome, syndrome, crc_flipBit h, parity_flipBit h hj]
  split
  · rw [BitVec.ofNat_eq_ofNat, BitVec.xor_zero]
    ac_rfl
  · rw [BitVec.ofNat_eq_ofNat, BitVec.xor_zero, BitVec.xor_assoc]

theorem syndrome_flipBits {l : FrameLen} {m : List Byte} (hm : m.length = l.bytes) {e : List Nat} (he : ∀ j0 ∈ e, j0 < l.bits) :
    syndrome l.bits (flipBits m e) = syndrome l.bits m ^^^ weightSum l.bits e := by
  induction e generalizing m with
  | nil => exact BitVec.xor_zero.symm
  | cons j0 e ih =>
    obtain ⟨hj, he⟩ := List.forall_mem_cons.1 he
    calc syndrome l.bits (flipBits (flipBit m j0) e)
      _ = syndrome l.bits (flipBit m j0) ^^^ weightSum l.bits e := ih ((flipBit_length m j0).trans hm) he
      _ = syndrome l.bits m ^^^ weightSum l.bits (j0 :: e) := by rw [syndrome_flipBit hm hj, weightSum, BitVec.xor_assoc]

/-- Settles O37: the checksum's sum skips the bits that are 0, and each flip adds one weight. -/
theorem syndromeLinear : Obligations.SyndromeLinear := by
  unfold Obligations.SyndromeLinear
  refine fun l m hm => ⟨?_, parity_toNat l m, rfl, fun j0 _ _ => crcT_of_lt (by omega), fun e he => syndrome_flipBits hm he⟩
  rw [crc_eq_crcSum, crcSum_eq_weightSum, List.range_eq_range']

/-- Settles O38: each search answers where its positions weigh the syndrome, and no two patterns weigh the same. -/
theorem searchesExact : Obligations.SearchesExact := by
  unfold Obligations.SearchesExact
  intro l n t
  have hn : n ≤ 112 := frameLen_bits_le l
  refine ⟨fun j0 hj => (fixOne_eq_some_iff hn).2 ⟨hj, rfl⟩, fun x j0 => (fixOne_eq_some_iff hn).1, fun j0 j1 h01 hj => ?_,
    fun x j0 j1 => (fixTwo_eq_some_iff hn).1⟩
  obtain ⟨hne0, hne⟩ := weight_pair_ne hn h01 hj
  exact ⟨(fixTwo_eq_some_iff hn).2 ⟨h01, hj, rfl⟩, (fixOne_eq_none_iff hn).2 hne, hne0⟩

/-! ### One and two flips (R151) -/

/-- Settles O39: the syndrome is the flipped position's weight, and the correction flips it back. -/
theorem oneFlipCorrected : Obligations.OneFlipCorrected := by
  unfold Obligations.OneFlipCorrected
  intro s f i j0 hlen hz hj g hd hi hdf h1
  have hx : syndrome f.len.bits (flipBit f.bytes j0) = crcT (f.len.bits - 1 - j0) := by
    rw [syndrome_flipBit hlen hj, hz, BitVec.ofNat_eq_ofNat, BitVec.zero_xor]
  have hback : flipBit (flipBit f.bytes j0) j0 = f.bytes := flipBit_flipBit (by rwa [hlen, ← frameLen_bits_eq])
  obtain ⟨-, hone, -⟩ := piDecode s g i hd hi hdf
  simpa only [g, hx, hback] using hone j0 h1 hj hx.symm

/-- Settles O40: the syndrome is the pair's sum of weights, and the correction flips both back. -/
theorem twoFlipsCorrected : Obligations.TwoFlipsCorrected := by
  unfold Obligations.TwoFlipsCorrected
  intro s f i j0 j1 hlen hz h01 hj1 g hd hi hdf h1 h2
  have hj0 : j0 < f.len.bits := h01.trans hj1
  have hx : syndrome f.len.bits (flipBit (flipBit f.bytes j0) j1) = crcT (f.len.bits - 1 - j0) ^^^ crcT (f.len.bits - 1 - j1) := by
    rw [syndrome_flipBit ((flipBit_length _ _).trans hlen) hj1, syndrome_flipBit hlen hj0, hz, BitVec.ofNat_eq_ofNat, BitVec.zero_xor]
  have hback : flipBit (flipBit (flipBit (flipBit f.bytes j0) j1) j0) j1 = f.bytes := by
    rw [frameLen_bits_eq, ← hlen] at hj0 hj1
    rw [flipBit_comm hj0 hj1, flipBit_flipBit (by rwa [flipBit_length]), flipBit_flipBit hj1]
  obtain ⟨-, -, htwo, -⟩ := piDecode s g i hd hi hdf
  simpa only [g, hx, hback] using htwo j0 j1 h1 h2 h01 hj1 hx.symm

/-! ### Three flips (R151)

x + 1 divides G, so every weight has an odd number of bits, and three weights are no sum of an even number of weights. -/

/-- The exclusive or of the low k bits of x. -/
def lowBitsParity (x : W24) : Nat → Bool
  | 0 => false
  | k + 1 => x.getLsbD k ^^ lowBitsParity x k

theorem lowBitsParity_xor (x y : W24) (k : Nat) : lowBitsParity (x ^^^ y) k = (lowBitsParity x k ^^ lowBitsParity y k) := by
  induction k with
  | zero => rfl
  | succ k ih =>
    rw [lowBitsParity, ih, BitVec.getLsbD_xor, lowBitsParity, lowBitsParity, Bool.xor_assoc, Bool.xor_left_comm (y.getLsbD k),
      Bool.xor_assoc]

theorem lowBitsParity_shiftLeft (x : W24) {k : Nat} (hk : k < 24) : lowBitsParity (x <<< 1) (k + 1) = lowBitsParity x k := by
  induction k with
  | zero => simp [lowBitsParity]
  | succ k ih => rw [lowBitsParity, ih (by omega), lowBitsParity, BitVec.getLsbD_shiftLeft]; simp [hk]

/-- G has an even number of terms, so a turn of the procedure keeps the parity. -/
theorem lowBitsParity_crcNext (r : W24) : lowBitsParity (crcNext r) 24 = lowBitsParity r 24 := by
  have hshift : lowBitsParity (r <<< 1) 24 = lowBitsParity r 23 := lowBitsParity_shiftLeft r (by decide)
  have hG : lowBitsParity 0xFFF409 24 = true := by decide
  have hr : lowBitsParity r 24 = (r.getLsbD 23 ^^ lowBitsParity r 23) := rfl
  rw [crcNext, hr]
  split
  next h => rw [lowBitsParity_xor, hshift, hG, h, Bool.xor_comm]
  next h => rw [hshift, Bool.eq_false_of_not_eq_true h, Bool.false_xor]

theorem lowBitsParity_crcT (e : Nat) : lowBitsParity (crcT e) 24 = true := by
  induction e with
  | zero => decide
  | succ e ih => rw [crcT, lowBitsParity_crcNext, ih]

theorem lowBitsParity_three (a b c : Nat) : lowBitsParity (crcT a ^^^ crcT b ^^^ crcT c) 24 = true := by
  simp only [lowBitsParity_xor, lowBitsParity_crcT, Bool.xor_self, Bool.false_xor]

theorem crcT_three_ne_zero (a b c : Nat) : crcT a ^^^ crcT b ^^^ crcT c ≠ 0 := by
  intro h
  have hp := lowBitsParity_three a b c
  rw [h] at hp
  exact absurd hp (by decide)

theorem crcT_three_ne_pair (a b c d e : Nat) : crcT d ^^^ crcT e ≠ crcT a ^^^ crcT b ^^^ crcT c := by
  intro h
  have hp := lowBitsParity_three a b c
  rw [← h, lowBitsParity_xor, lowBitsParity_crcT, lowBitsParity_crcT] at hp
  exact absurd hp (by decide)

/-- Three remainders are no single remainder: two of them would be a pair with the third. -/
theorem crcT_three_ne_crcT {a b c d : Nat} (hab : a < b) (hbc : b < c) (hc : c < 112) (hd : d < 112) :
    crcT d ≠ crcT a ^^^ crcT b ^^^ crcT c := by
  intro h
  have hpair : crcT a ^^^ crcT b = crcT c ^^^ crcT d := by
    rw [h, BitVec.xor_comm (crcT c), BitVec.xor_assoc, BitVec.xor_self, BitVec.xor_zero]
  rcases Nat.lt_trichotomy c d with hcd | rfl | hdc
  · have := (crcT_pair_inj hab hcd (by omega) hd hpair).1
    omega
  · have := crcT_inj (by omega) (by omega) (BitVec.xor_eq_zero_iff.1 (hpair.trans BitVec.xor_self))
    omega
  · have := (crcT_pair_inj hab hdc (by omega) hc (hpair.trans (BitVec.xor_comm _ _))).2
    omega

/-- Settles O41: the sum of three weights is not 0, no weight and no pair's sum, so no search finds it. -/
theorem threeFlipsRejected : Obligations.ThreeFlipsRejected := by
  unfold Obligations.ThreeFlipsRejected
  intro s f i j0 j1 j2 hlen hz h01 h12 hj2 g hd hi hdf
  have hn : f.len.bits ≤ 112 := frameLen_bits_le f.len
  have hin : ∀ j ∈ [j0, j1, j2], j < f.len.bits := by
    simp only [List.forall_mem_cons, List.not_mem_nil, false_implies, implies_true, and_true]
    omega
  have hx : syndrome f.len.bits (flipBits f.bytes [j0, j1, j2])
      = crcT (f.len.bits - 1 - j2) ^^^ crcT (f.len.bits - 1 - j1) ^^^ crcT (f.len.bits - 1 - j0) := by
    rw [syndrome_flipBits hlen hin, hz, BitVec.ofNat_eq_ofNat, BitVec.zero_xor]
    simp only [weightSum, BitVec.ofNat_eq_ofNat, BitVec.xor_zero]
    ac_rfl
  have hsingle : ∀ j, j < f.len.bits → crcT (f.len.bits - 1 - j) ≠ syndrome f.len.bits (flipBits f.bytes [j0, j1, j2]) :=
    fun j hj => hx ▸ crcT_three_ne_crcT (by omega) (by omega) (by omega) (by omega)
  obtain ⟨-, -, -, hfail⟩ := piDecode s g i hd hi hdf
  exact hfail (hx ▸ crcT_three_ne_zero _ _ _) (.inr ⟨hsingle, .inr fun _ _ _ _ => hx ▸ crcT_three_ne_pair _ _ _ _ _⟩)

end Sys2Proof.Machine
end

section
/-! The address cache: CacheRecord writes its one slot, CacheSeen answers by slot, address and age (45_icao_cache.md). -/

namespace Sys2Proof.Machine

section Cache
variable {p : Params} {c : List (Nat × CacheSlot)} {a b : W24} {t u : W32}

/-! ### Slots -/

/-- In a table of power-of-two length the slot is the hash's low bits (R154). -/
theorem cacheSlot_eq_and {k : Nat} (hk : p.cacheLen = 2 ^ k) (a : W24) :
    cacheSlot p a = (icaoHash p a).toNat &&& (p.cacheLen - 1) := by
  rw [cacheSlot, hk, Nat.and_two_pow_sub_one_eq_mod]

/-! ### Reads after a record -/

theorem cacheRead_record_same (h : sparseWf CacheSlot.empty c) (hb : cacheSlot p b = cacheSlot p a) :
    cacheRead (cacheRecord p c a t) (cacheSlot p b) = { valid := true, addr := a, ts := t } := by
  rw [cacheRead_record h, if_pos hb]

theorem cacheRead_record_other (h : sparseWf CacheSlot.empty c) {j : Nat} (hj : j ≠ cacheSlot p a) :
    cacheRead (cacheRecord p c a t) j = cacheRead c j := by
  rw [cacheRead_record h, if_neg hj]

/-! ### CacheSeen after a record -/

/-- Within the recorded slot CacheSeen is true of the recorded address alone, up to and including the age ICAO_TTL. -/
theorem cacheSeen_record_same_iff (h : sparseWf CacheSlot.empty c) (hb : cacheSlot p b = cacheSlot p a) :
    cacheSeen p (cacheRecord p c a t) b u = true ↔ a = b ∧ (u - t).toNat ≤ p.ttl := by
  simp only [cacheSeen_iff, cacheRead_record_same h hb, true_and]

/-- CacheSeen depends on the cache through the address's own slot only. -/
theorem cacheSeen_congr {c' : List (Nat × CacheSlot)} (h : cacheRead c' (cacheSlot p b) = cacheRead c (cacheSlot p b)) :
    cacheSeen p c' b u = cacheSeen p c b u := by
  rw [cacheSeen, cacheSeen, h]

end Cache

/-- Settles O53: every clause on CacheSeen follows from what a read of the one slot it looks at returns after the record. -/
theorem cacheOperations : Obligations.CacheOperations := by
  unfold Obligations.CacheOperations
  intro p c a t k hk hwf
  have hslot : cacheSlot p a < p.cacheLen := Nat.mod_lt _ (hk ▸ Nat.two_pow_pos k)
  refine ⟨hslot, cacheSlot_eq_and hk a, cacheRecord_wf hwf a t, cacheRead_record_same hwf rfl,
    fun j hj => cacheRead_record_other hwf hj, fun b u => cacheSeen_iff, fun u => ?own, fun b u hb hs => ?collides,
    fun b u hs => cacheSeen_congr (cacheRead_record_other hwf hs)⟩
  case own =>
    rw [cacheSeen_record_same_iff hwf rfl]
    exact and_iff_right rfl
  case collides =>
    refine Bool.eq_false_iff.2 fun hseen => hb ?_
    exact ((cacheSeen_record_same_iff hwf hs).1 hseen).1.symm

end Sys2Proof.Machine
end

section
/-! The field decoder (46_field_decoder.md): speed and track, airborne positions and velocities, and the groups of fields a record has by
its downlink format. -/

namespace Sys2Proof.Machine

/-! ### Speed (R181) -/

/-- The k bits still to try reach from r to the root, where v is below (r + 2^k)²: no larger root is missed. -/
theorem lt_isqrtFrom_succ_sq {v k r : Nat} (h : v < (r + 2 ^ k) ^ 2) : v < (isqrtFrom v k r + 1) ^ 2 := by
  induction k generalizing r with
  | zero => exact h
  | succ k ih =>
    unfold isqrtFrom
    split
    next => exact ih (by rwa [Nat.add_assoc, ← Nat.two_mul, ← pow_succ'])
    next hlt => exact ih (Nat.lt_of_not_le hlt)

theorem isqrt_eq_sqrt {v : Nat} (h : v < 2 ^ 22) : isqrt v = Nat.sqrt v :=
  Nat.eq_sqrt'.2 ⟨isqrtFrom_sq_le (Nat.zero_le _), lt_isqrtFrom_succ_sq h⟩

theorem speedOf_eq_sqrt (ew ns : BitVec 10) : speedOf ew ns = Nat.sqrt (ew.toNat ^ 2 + ns.toNat ^ 2) := by
  have he : ew.toNat ^ 2 ≤ 1023 ^ 2 := Nat.pow_le_pow_left (by omega) 2
  have hn : ns.toNat ^ 2 ≤ 1023 ^ 2 := Nat.pow_le_pow_left (by omega) 2
  exact isqrt_eq_sqrt (by omega)

/-- The speed is 0 only where both components are. -/
theorem speedOf_eq_zero_iff (ew ns : BitVec 10) : speedOf ew ns = 0 ↔ ew = 0 ∧ ns = 0 := by
  rw [speedOf_eq_sqrt, Nat.sqrt_eq_zero, Nat.add_eq_zero_iff, pow_eq_zero_iff two_ne_zero, pow_eq_zero_iff two_ne_zero,
    ← BitVec.toNat_inj, ← BitVec.toNat_inj]
  rfl

/-! ### Track (R177, R182, R183) -/

section
variable {ewDir nsDir : BitVec 1} {ew ns : BitVec 10}

theorem trackOf_of_speed_zero (h : speedOf ew ns = 0) : trackOf ewDir ew nsDir ns = 0 := if_pos h

theorem trackOf_of_speed_ne (h : speedOf ew ns ≠ 0) :
    trackOf ewDir ew nsDir ns = trackFn (signedComponent ewDir ew) (signedComponent nsDir ns) := if_neg h

theorem signedComponent_of_zero (dir : BitVec 1) : signedComponent dir 0 = 0 := by
  simp [signedComponent]

/-- Pure east and west (R183). -/
theorem trackOf_of_ns_zero (h : ew ≠ 0) : trackOf ewDir ew nsDir 0 = if ewDir = 0 then 90 else 270 := by
  have hs : speedOf ew 0 ≠ 0 := fun h0 => h ((speedOf_eq_zero_iff ew 0).1 h0).1
  have hpos : 0 < ew.toNat := Nat.pos_of_ne_zero fun h0 => h (BitVec.eq_of_toNat_eq h0)
  rw [trackOf_of_speed_ne hs, signedComponent_of_zero]
  obtain rfl | rfl := BitVec.eq_zero_or_eq_one ewDir
  · simp [signedComponent, trackFn, hpos]
  · simp [signedComponent, trackFn, hpos]

/-- Pure north and south (R183). -/
theorem trackOf_of_ew_zero (h : ns ≠ 0) : trackOf ewDir 0 nsDir ns = if nsDir = 0 then 0 else 180 := by
  have hs : speedOf 0 ns ≠ 0 := fun h0 => h ((speedOf_eq_zero_iff 0 ns).1 h0).2
  have hpos : 0 < ns.toNat := Nat.pos_of_ne_zero fun h0 => h (BitVec.eq_of_toNat_eq h0)
  rw [trackOf_of_speed_ne hs, signedComponent_of_zero]
  obtain rfl | rfl := BitVec.eq_zero_or_eq_one nsDir
  · simp [signedComponent, trackFn, hpos]
  · simp [signedComponent, trackFn, hpos]

end

/-- The one named value off the axes (R183). -/
theorem trackOf_named : trackOf 1 9 1 160 = 184 := by
  have hs : speedOf 9 160 ≠ 0 := fun h => absurd ((speedOf_eq_zero_iff 9 160).1 h).1 (by decide)
  rw [trackOf_of_speed_ne hs]
  simp [signedComponent, trackFn]

/-- Settles O52: the speed is `Nat.sqrt` of the sum of the squares, and the track follows from the signs of the components. -/
theorem speedTrack : Obligations.SpeedTrack := by
  unfold Obligations.SpeedTrack
  intro ewDir nsDir ew ns v
  have hv : speedOf ew ns = Nat.sqrt v := speedOf_eq_sqrt ew ns
  refine ⟨hv ▸ Nat.sqrt_le' v, hv ▸ Nat.lt_succ_sqrt' v, speedOf_le ew ns, trackOf_le ewDir ew nsDir ns, fun he hn => ?rest,
    fun he hn => ?eastWest, fun he hn => ?northSouth, trackOf_named⟩
  case rest => exact trackOf_of_speed_zero ((speedOf_eq_zero_iff ew ns).2 ⟨he, hn⟩)
  case eastWest => exact hn ▸ trackOf_of_ns_zero he
  case northSouth => exact he ▸ trackOf_of_ew_zero hn

/-! ### The fields of a record, of the message its 14 bytes hold (R160) -/

theorem msgField_toNat_padded (m : List Byte) {a b w : Nat} (h : b + 1 - a ≤ w) :
    (msgField w m a b).toNat = msgBits (padded m) a b :=
  (msgField_toNat m h).trans (msgBits_padded m a b).symm

/-! ### Airborne position (R170, R171) -/

/-- AC12 writes the altitude, its validity and its unit, and nothing else (R170). -/
theorem altitude12_eq (m : List Byte) (r : DecodedMessage) :
    altitude12 m r =
      { r with
        altUnit := .feet, altValid := decide (msgBits (padded m) 48 48 = 1),
        alt := if msgBits (padded m) 48 48 = 1 then
          altitude25 (msgBits (padded m) 41 47 * 16 + msgBits (padded m) 49 52) else 0 } := by
  simp only [msgBits_padded]
  unfold altitude12
  dsimp only
  split
  next hq => simp [hq]
  next hq => simp [hq]

/-- Settles O47: a record of TC 9–18 is the header and the airborne position rule. -/
theorem airbornePosition_records : Obligations.AirbornePosition := by
  unfold Obligations.AirbornePosition
  intro typed fields
  refine squitter_records (typed := typed) (fields := fields) fun cfg v hdf ht => ?_
  obtain ⟨htc, -⟩ := byte_fields_toNat (v.m.getD 4 0)
  obtain ⟨h17, hv, hc, hs⟩ := meHeader_hasMeHeader hdf cfg
  obtain ⟨-, -, hvel, hflight, hdr, hid⟩ := meHeader_others cfg v
  have field {w a b : Nat} (h : b + 1 - a ≤ w) := msgField_toNat_padded v.m h
  have hq0 {q : Nat} (hq : q = 0) : q ≠ 1 := hq ▸ Nat.zero_ne_one
  rw [decodeFields_of_byte4 hdf cfg rfl, meRule, if_neg (by omega), if_pos (by rwa [htc]), airbornePosition, altitude12_eq]
  exact ⟨h17, hv, hc, hs, rfl, fun hq => ⟨decide_eq_true hq, if_pos hq⟩, fun hq => ⟨decide_eq_false (hq0 hq), if_neg (hq0 hq)⟩,
    rfl, field (by decide), field (by decide), field (by decide), field (by decide), hflight, hvel, hdr, hid⟩

/-! ### Velocity (R174–R182) -/

/-- A signed component of a message (R177). -/
theorem signedComponent_msgField (m : List Byte) {d a b : Nat} (h : b + 1 - a ≤ 10) :
    signedComponent (msgField 1 m d d) (msgField 10 m a b) =
      if msgBits (padded m) d d = 1 then -(msgBits (padded m) a b : Int) else msgBits (padded m) a b := by
  have hd : msgField 1 m d d = 1 ↔ msgBits (padded m) d d = 1 := by
    rw [← BitVec.toNat_inj, msgField_toNat_padded m (by omega)]
    rfl
  simp only [signedComponent, hd, msgField_toNat_padded m h]

/-- Settles O48: a record of TC 19 with ST 1 or 2 is the header and the velocity rule. -/
theorem velocityMessage : Obligations.VelocityMessage := by
  unfold Obligations.VelocityMessage
  intro typed fields
  refine squitter_records (typed := typed) (fields := fields) fun cfg v hdf ht => ?_
  obtain ⟨htc, hst⟩ := byte_fields_toNat (v.m.getD 4 0)
  obtain ⟨h17, hv, hc, hs⟩ := meHeader_hasMeHeader hdf cfg
  obtain ⟨halt, hpos, -, hflight, hdr, hid⟩ := meHeader_others cfg v
  rw [decodeFields_of_byte4 hdf cfg rfl, meRule, if_neg (by omega), if_neg (by omega), if_pos (by rwa [htc, hst])]
  have field {w a b : Nat} (h : b + 1 - a ≤ w) := msgField_toNat_padded v.m h
  refine ⟨h17, hv, hc, hs, rfl, field (by decide), field (by decide), field (by decide), field (by decide), field (by decide),
    field (by decide), field (by decide), ?speed, fun h0 => trackOf_of_speed_zero h0, fun h0 => ?track, halt, hpos, hflight, hdr, hid⟩
  case speed =>
    exact (speedOf_eq_sqrt _ _).trans (by rw [field (by decide), field (by decide)]; rfl)
  case track =>
    refine (trackOf_of_speed_ne h0).trans ?_
    rw [signedComponent_msgField v.m (by decide), signedComponent_msgField v.m (by decide)]
    rfl

/-! ### The field groups of a record (R161–R167) -/

/-- The AC13 altitude of the record's message (R163). -/
def DecodedMessage.HasAltitude13 (r : DecodedMessage) : Prop :=
  (r.altUnit = if msgBits r.msg 26 26 = 1 then .meters else .feet)
    ∧ (msgBits r.msg 26 26 = 0 ∧ msgBits r.msg 28 28 = 1 → r.altValid = true
      ∧ r.alt = 25 * ((msgBits r.msg 20 25 * 32 + msgBits r.msg 27 27 * 16 + msgBits r.msg 29 32 : Nat) : Int) - 1000
      ∧ -1000 ≤ r.alt ∧ r.alt ≤ 50175)
    ∧ (¬ (msgBits r.msg 26 26 = 0 ∧ msgBits r.msg 28 28 = 1) → r.altValid = false ∧ r.alt = 0)

/-- DR and UM of the record's message (R167). -/
def DecodedMessage.HasDrUm (r : DecodedMessage) : Prop :=
  r.drValid = true ∧ r.dr.toNat = msgBits r.msg 9 13 ∧ r.um.toNat = msgBits r.msg 14 19

/-- The identity of the record's message (R165). -/
def DecodedMessage.HasIdentity (r : DecodedMessage) : Prop :=
  r.idValid = true
    ∧ r.idA.toNat = 4 * msgBits r.msg 25 25 + 2 * msgBits r.msg 23 23 + msgBits r.msg 21 21
    ∧ r.idB.toNat = 4 * msgBits r.msg 31 31 + 2 * msgBits r.msg 29 29 + msgBits r.msg 27 27
    ∧ r.idC.toNat = 4 * msgBits r.msg 24 24 + 2 * msgBits r.msg 22 22 + msgBits r.msg 20 20
    ∧ r.idD.toNat = 4 * msgBits r.msg 32 32 + 2 * msgBits r.msg 30 30 + msgBits r.msg 28 28
    ∧ r.squawk = 1000 * r.idA.toNat + 100 * r.idB.toNat + 10 * r.idC.toNat + r.idD.toNat

/-- No field of an ME (R84, R173). -/
def DecodedMessage.NoMe (r : DecodedMessage) : Prop := r.NoMeHeader ∧ r.NoFlight ∧ r.NoPosition ∧ r.NoVelocity

/-- AC13 writes the altitude, its validity and its unit, and nothing else (R163). -/
theorem altitude13_eq (m : List Byte) (r : DecodedMessage) :
    altitude13 m r =
      { r with
        altUnit := if msgBits (padded m) 26 26 = 1 then .meters else .feet,
        altValid := decide (msgBits (padded m) 26 26 = 0 ∧ msgBits (padded m) 28 28 = 1),
        alt := if msgBits (padded m) 26 26 = 0 ∧ msgBits (padded m) 28 28 = 1 then
          altitude25 (msgBits (padded m) 20 25 * 32 + msgBits (padded m) 27 27 * 16 + msgBits (padded m) 29 32) else 0 } := by
  simp only [msgBits_padded]
  unfold altitude13
  dsimp only
  split
  next h => simp [h]
  next h => simp [h]

/-- A digit's three bits are its value (R165). -/
theorem octalDigit_toNat (m : List Byte) (j4 j2 j1 : Nat) :
    (octalDigit m j4 j2 j1).toNat =
      4 * msgBits (padded m) j4 j4 + 2 * msgBits (padded m) j2 j2 + msgBits (padded m) j1 j1 := by
  have hbit (j : Nat) : msgBits (padded m) j j < 2 ^ 1 := msgBits_lt _ (by omega)
  have h4 := hbit j4
  have h2 := hbit j2
  have h1 := hbit j1
  rw [octalDigit, BitVec.toNat_ofNat, ← msgBits_padded m j4, ← msgBits_padded m j2, ← msgBits_padded m j1]
  omega

section
variable {m : List Byte} {r : DecodedMessage} (hm : r.msg = padded m)
include hm

theorem altitude13_hasAltitude13 : (altitude13 m r).HasAltitude13 := by
  have h1 := msgBits_lt (padded m) (a := 20) (b := 25) (n := 6) (by decide)
  have h2 := msgBits_lt (padded m) (a := 27) (b := 27) (n := 1) (by decide)
  have h3 := msgBits_lt (padded m) (a := 29) (b := 32) (n := 4) (by decide)
  rw [altitude13_eq, DecodedMessage.HasAltitude13]
  dsimp only
  rw [hm]
  refine ⟨rfl, fun hq => ⟨decide_eq_true hq, if_pos hq, ?_⟩, fun hq => ⟨decide_eq_false hq, if_neg hq⟩⟩
  rw [if_pos hq]
  exact altitude25_range (by omega)

theorem identity13_hasIdentity : (identity13 m r).HasIdentity := by
  rw [DecodedMessage.HasIdentity, show (identity13 m r).msg = padded m from hm]
  exact ⟨rfl, octalDigit_toNat m _ _ _, octalDigit_toNat m _ _ _, octalDigit_toNat m _ _ _, octalDigit_toNat m _ _ _, rfl⟩

theorem drUm_hasDrUm : (drUm m r).HasDrUm := by
  rw [DecodedMessage.HasDrUm, show (drUm m r).msg = padded m from hm]
  exact ⟨rfl, msgField_toNat_padded m (by decide), msgField_toNat_padded m (by decide)⟩

end

/-- The rules an ME field can take (R168). -/
theorem meFields_cases (m : List Byte) (r : DecodedMessage) :
    meFields m r = identification m r ∨ meFields m r = airbornePosition m r ∨ meFields m r = velocity m r
      ∨ meFields m r = r := by
  unfold meFields
  dsimp only
  split_ifs <;> simp

/-- The rule of each downlink format (R161). -/
theorem formatFields_cases (m : List Byte) (r : DecodedMessage) :
    ((msgBits m 1 5 = 0 ∨ msgBits m 1 5 = 16) ∧ formatFields m r = altitude13 m r)
      ∨ ((msgBits m 1 5 = 4 ∨ msgBits m 1 5 = 20) ∧ formatFields m r = drUm m (altitude13 m r))
      ∨ ((msgBits m 1 5 = 5 ∨ msgBits m 1 5 = 21) ∧ formatFields m r = drUm m (identity13 m r))
      ∨ (msgBits m 1 5 = 17 ∧ formatFields m r = meFields m (meHeader m r))
      ∨ (¬ (msgBits m 1 5 = 0 ∨ msgBits m 1 5 = 4 ∨ msgBits m 1 5 = 5 ∨ msgBits m 1 5 = 16 ∨ msgBits m 1 5 = 17
          ∨ msgBits m 1 5 = 20 ∨ msgBits m 1 5 = 21) ∧ formatFields m r = r) := by
  unfold formatFields
  dsimp only
  split_ifs with h1 h2 h3 h4
  · exact .inl ⟨h1, rfl⟩
  · exact .inr (.inl ⟨h2, rfl⟩)
  · exact .inr (.inr (.inl ⟨h3, rfl⟩))
  · exact .inr (.inr (.inr (.inl ⟨h4, rfl⟩)))
  · exact .inr (.inr (.inr (.inr ⟨by omega, rfl⟩)))

/-- An ME rule leaves the third field, METRIC, DR, UM and the identity alone (R168). -/
theorem meFields_kept (m : List Byte) (r : DecodedMessage) :
    (meFields m r).f3 = r.f3 ∧ (meFields m r).unitPref = r.unitPref ∧ (r.NoDrUm → (meFields m r).NoDrUm)
      ∧ (r.NoIdentity → (meFields m r).NoIdentity) := by
  obtain h | h | h | h := meFields_cases m r <;> rw [h]
  case inr.inl =>
    rw [airbornePosition, altitude12_eq]
    exact ⟨rfl, rfl, id, id⟩
  all_goals exact ⟨rfl, rfl, id, id⟩

/-- No field rule writes the third field or METRIC (R159, R185). -/
theorem formatFields_f3_unitPref (m : List Byte) (r : DecodedMessage) :
    (formatFields m r).f3 = r.f3 ∧ (formatFields m r).unitPref = r.unitPref := by
  obtain ⟨-, h⟩ | ⟨-, h⟩ | ⟨-, h⟩ | ⟨-, h⟩ | ⟨-, h⟩ := formatFields_cases m r <;> rw [h]
  · rw [altitude13_eq]
    exact ⟨rfl, rfl⟩
  · rw [altitude13_eq]
    exact ⟨rfl, rfl⟩
  · exact ⟨rfl, rfl⟩
  · obtain ⟨hf3, hunit, -⟩ := meFields_kept m (meHeader m r)
    exact ⟨hf3, hunit⟩
  · exact ⟨rfl, rfl⟩

/-- Which field groups a record has by its downlink format df (R161, R173). -/
structure DecodedMessage.GroupsOf (df : Nat) (r : DecodedMessage) : Prop where
  altitude : df = 0 ∨ df = 4 ∨ df = 16 ∨ df = 20 → r.HasAltitude13
  noAltitude : ¬ (df = 0 ∨ df = 4 ∨ df = 16 ∨ df = 17 ∨ df = 20) → r.NoAltitude
  drUm : df = 4 ∨ df = 5 ∨ df = 20 ∨ df = 21 → r.HasDrUm
  noDrUm : ¬ (df = 4 ∨ df = 5 ∨ df = 20 ∨ df = 21) → r.NoDrUm
  identity : df = 5 ∨ df = 21 → r.HasIdentity
  noIdentity : ¬ (df = 5 ∨ df = 21) → r.NoIdentity
  noMe : df ≠ 17 → r.NoMe

/-- A record before its format's rule has no decoded field (R159). -/
theorem commonFields_none (cfg : W32) (v : Verdict) : let r := commonFields cfg v
    r.NoAltitude ∧ r.NoDrUm ∧ r.NoIdentity ∧ r.NoMe :=
  ⟨⟨rfl, rfl, rfl⟩, ⟨rfl, rfl, rfl⟩, ⟨rfl, rfl, rfl, rfl, rfl, rfl⟩, ⟨rfl, rfl, rfl⟩, ⟨rfl, rfl⟩, ⟨rfl, rfl, rfl, rfl, rfl⟩,
    rfl, rfl, rfl, rfl, rfl, rfl, rfl, rfl, rfl, rfl⟩

/-- The format's rule writes its groups and leaves the others absent; a clause whose premise the format contradicts is empty. -/
theorem decodeFields_groupsOf (cfg : W32) (v : Verdict) : (decodeFields cfg v).GroupsOf (msgBits v.m 1 5) := by
  have hm : (commonFields cfg v).msg = padded v.m := rfl
  have halt := altitude13_hasAltitude13 hm
  obtain ⟨noAlt, noDr, noId, noMe⟩ := commonFields_none cfg v
  unfold decodeFields
  obtain ⟨hdf, h⟩ | ⟨hdf, h⟩ | ⟨hdf, h⟩ | ⟨hdf, h⟩ | ⟨hdf, h⟩ := formatFields_cases v.m (commonFields cfg v) <;> rw [h]
  · rw [altitude13_eq] at halt ⊢
    exact { altitude := fun _ => halt, noAltitude := fun _ => by omega, drUm := fun _ => by omega, noDrUm := fun _ => noDr
            identity := fun _ => by omega, noIdentity := fun _ => noId, noMe := fun _ => noMe }
  · rw [altitude13_eq] at halt ⊢
    exact { altitude := fun _ => halt, noAltitude := fun _ => by omega, drUm := fun _ => drUm_hasDrUm hm
            noDrUm := fun _ => by omega, identity := fun _ => by omega, noIdentity := fun _ => noId, noMe := fun _ => noMe }
  · exact { altitude := fun _ => by omega, noAltitude := fun _ => noAlt, drUm := fun _ => drUm_hasDrUm hm
            noDrUm := fun _ => by omega, identity := fun _ => identity13_hasIdentity hm, noIdentity := fun _ => by omega
            noMe := fun _ => noMe }
  · obtain ⟨-, -, hdr, hid⟩ := meFields_kept v.m (meHeader v.m (commonFields cfg v))
    exact { altitude := fun _ => by omega, noAltitude := fun _ => by omega, drUm := fun _ => by omega
            noDrUm := fun _ => hdr noDr, identity := fun _ => by omega, noIdentity := fun _ => hid noId
            noMe := fun _ => by omega }
  · exact { altitude := fun _ => by omega, noAltitude := fun _ => noAlt, drUm := fun _ => by omega, noDrUm := fun _ => noDr
            identity := fun _ => by omega, noIdentity := fun _ => noId, noMe := fun _ => noMe }

/-- The record that a decode of the frame in hand leaves is its verdict's (R138). -/
theorem record_of_decodesFrame {s t : State} {f : RawFrame} {i : Instr} {r : DecodedMessage} (hd : Decodes s f)
    (hi : DecodesFrame i f) (hx : exec i s = .next t) (ht : t.msg = some r) : r = decodeFields s.cfg (validate s f s.now) := by
  rw [exec_decodesFrame hd hi, exec_deDecode hd] at hx
  cases hx
  have ho : decodeOut s.cfg (validate s f s.now) = some r := ht
  unfold decodeOut at ho
  split at ho <;> cases ho
  rfl

theorem validate_len (s : State) (f : RawFrame) (t : W32) : (validate s f t).len = f.len := by
  unfold validate
  split <;> rfl

/-- Settles O50: each group is the one the format's rule writes, and the rules write nothing else. -/
theorem recordFields : Obligations.RecordFields := by
  unfold Obligations.RecordFields
  intro s t f i r hd hi hx ht
  obtain rfl := record_of_decodesFrame hd hi hx ht
  have hlen := validate_len s f s.now
  generalize validate s f s.now = v at hlen
  have hmsg := decodeFields_msg s.cfg v
  have hg := decodeFields_groupsOf s.cfg v
  obtain ⟨hf3, hunit⟩ := formatFields_f3_unitPref v.m (commonFields s.cfg v)
  obtain ⟨-, hnBits⟩ := formatFields_kept v.m (commonFields s.cfg v)
  rw [← msgBits_padded, ← hmsg] at hg
  simp only [List.mem_cons, List.not_mem_nil, or_false]
  refine ⟨?df, ?f3, hunit, hnBits.trans hlen, hg.altitude, hg.noAltitude, hg.drUm, hg.noDrUm, hg.identity, hg.noIdentity, hg.noMe⟩
  case df => rw [decodeFields_df, hmsg, msgBits_padded]
  case f3 =>
    rw [hmsg, ← msgField_toNat_padded v.m (w := 3) (by decide)]
    exact congrArg BitVec.toNat hf3

end Sys2Proof.Machine
end

section
/-! The reset sequence (47_host_interface.md, 70_reset_and_hazards.md): CMD RESET and the RST input each run `State.resetBlock`. -/

namespace Sys2Proof.Machine

/-! ### The sources of reset (R193, R218) -/

theorem exec_wr0Reset (s : State) : exec .wr0Reset s = .next s.resetBlock := rfl

theorem exec_reset (s : State) : exec .reset s = .next s.resetBlock := rfl

/-- The RST input is taken from the agenda and resets the block. -/
theorem step_of_rst {s : State} {rest : List Event} (hp : paramsOk s.params = true) (ha : s.agenda = .rst :: rest) :
    step s = .next { s.resetBlock with agenda := rest } := by
  simp only [step, if_pos hp, fetch, ha]
  rfl

/-- Power-on is the reset of any state, with the default parameters and no inputs. -/
theorem reset_eq_resetBlock (s : State) :
    State.reset = { s.resetBlock with params := Params.default, agenda := [], nowIn := [], draws := 0 } := rfl

/-- Settles O13: each source of reset gives `State.resetBlock`, whose empty cache reads as the empty slot. -/
theorem resetSequence : Obligations.ResetSequence := by
  unfold Obligations.ResetSequence
  exact fun s => ⟨exec_wr0Reset s, exec_reset s, fun _ hp ha => step_of_rst hp ha, sparseRead_nil CacheSlot.empty, rfl,
    reset_eq_resetBlock s⟩

end Sys2Proof.Machine
end
